-- ==== Sys2Proof/Word.lean ====
section
/-! DEFINITION. The words of the FIX16 unit and the notation of spec/00_scope.md section 5 (N1 to N8). -/

namespace Sys2Proof

/-- N1: a word is a 32-bit vector; one Fixed16 value is one word (R10). -/
abbrev Word := BitVec 32

/-- The opcode byte of a command (R30). -/
abbrev Opcode := BitVec 8

/-- A command word: 72 bits, numbered 71 down to 0 (R30, N1). -/
abbrev CmdWord := BitVec 72

/-- A response word: 40 bits (R35). -/
abbrev RspWord := BitVec 40

/-- N3: `s(w)`, the two's complement signed integer of a word. -/
abbrev signed (w : Word) : Int := w.toInt

/-- N5: `wrap32(n)`, the word whose unsigned reading is `n mod 2^32`. -/
abbrev wrap32 (n : Int) : Word := BitVec.ofInt 32 n

/-- N6: `n << k` on unbounded integers. -/
def shl (n : Int) (k : Nat) : Int := n * 2 ^ k

/-- N6: `n >> k` on unbounded integers, the floor of `n / 2^k`. -/
def shr (n : Int) (k : Nat) : Int := n / 2 ^ k

/-- N1: the slice `x[hi:lo]` of an unsigned number. -/
def slice (x hi lo : Nat) : Nat := x / 2 ^ lo % 2 ^ (hi - lo + 1)

end Sys2Proof
end

