-- ==== Sys2Proof/Syntax.lean ====
section
/-! DEFINITION. The instruction set as syntax: the command of R30 and the 14 operations of R3 and R32. -/

namespace Sys2Proof

/-- R30: the three fields of a command, `{op, a, b}`. Every 72-bit word is one of these. -/
structure Command where
  op : Opcode
  a  : Word
  b  : Word
deriving DecidableEq, Repr

/-- R3, R32: the closed set of 14 operations, one constructor per row of the opcode table, with both operand words of the
command. For the one-operand commands `b` is the field that R33 says is ignored; it is kept so that no bit of the
command word is lost (log 8). -/
inductive Instr where
  | add   (a b : Word)
  | sub   (a b : Word)
  | mul   (a b : Word)
  | div   (a b : Word)
  | mod   (a b : Word)
  | sadd  (a b : Word)
  | ssub  (a b : Word)
  | smul  (a b : Word)
  | sdiv  (a b : Word)
  | sqrt  (a b : Word)
  | exp   (a b : Word)
  | log   (a b : Word)
  | log2  (a b : Word)
  | slog2 (a b : Word)
deriving DecidableEq, Repr

end Sys2Proof
end

