-- ==== Sys2Proof/WellFormed.lean ====
section
/-! DEFINITION. Well-formedness.

A term of Instr is well formed by its types alone: both operand fields are complete words and the unit accepts every one
of the 2^32 words in either of them (R10, R30, R33). So there is no check on Instr. What can be ill formed is a command
word (a reserved opcode, R34) and the assembler's spelling of a one-operand command (R33, R37). -/

namespace Sys2Proof

/-- R32: the 14 assigned opcode bytes. -/
def assignedOpcodes : List Opcode :=
  [0x00, 0x01, 0x02, 0x03, 0x04, 0x08, 0x09, 0x0A, 0x0B, 0x10, 0x11, 0x12, 0x13, 0x1B]

/-- R34: a command is well formed when its opcode byte is assigned; the other 242 bytes are reserved. -/
def Command.wellFormed (c : Command) : Bool := assignedOpcodes.contains c.op

/-- R33, R37: the assembler's form of an instruction writes `b` as zero for a one-operand command. An instruction that is not of
this form is the same command, not a reserved one (R33). -/
def Instr.assemblerForm : Instr → Bool
  | .add _ _ | .sub _ _ | .mul _ _ | .div _ _ | .mod _ _ => true
  | .sadd _ _ | .ssub _ _ | .smul _ _ | .sdiv _ _ => true
  | .sqrt _ b | .exp _ b | .log _ b | .log2 _ b | .slog2 _ b => b == 0

end Sys2Proof
end

