-- ==== Sys2Proof/Decode.lean ====
section
/-! DEFINITION. Decoding and encoding of command words (R30 to R34, R36). -/

namespace Sys2Proof

/-- Why a command word is no instruction of the table. The only reason is a reserved opcode byte (R34); the machine
completes such a command with ILLEGAL_OP, see Machine/Cycle.lean. -/
inductive DecodeError where
  | reservedOpcode (op : Opcode)
deriving DecidableEq, Repr

/-- What the decoder reads from a command word: an instruction, or a refusal by name. Total. -/
inductive Decoded where
  | ok (i : Instr)
  | error (e : DecodeError)
deriving DecidableEq, Repr

/-- R36: `op = w[71:64]`, `a = w[63:32]`, `b = w[31:0]`. -/
def Command.ofWord (w : CmdWord) : Command :=
  { op := w.extractLsb' 64 8, a := w.extractLsb' 32 32, b := w.extractLsb' 0 32 }

/-- R36: encoding is the concatenation `{op, a, b}`. -/
def Command.toWord (c : Command) : CmdWord := c.op ++ c.a ++ c.b

/-- R32, R34: the opcode map. -/
def decodeCommand (c : Command) : Decoded :=
  match c.op with
  | 0x00#8 => .ok (.add c.a c.b)
  | 0x01#8 => .ok (.sub c.a c.b)
  | 0x02#8 => .ok (.mul c.a c.b)
  | 0x03#8 => .ok (.div c.a c.b)
  | 0x04#8 => .ok (.mod c.a c.b)
  | 0x08#8 => .ok (.sadd c.a c.b)
  | 0x09#8 => .ok (.ssub c.a c.b)
  | 0x0A#8 => .ok (.smul c.a c.b)
  | 0x0B#8 => .ok (.sdiv c.a c.b)
  | 0x10#8 => .ok (.sqrt c.a c.b)
  | 0x11#8 => .ok (.exp c.a c.b)
  | 0x12#8 => .ok (.log c.a c.b)
  | 0x13#8 => .ok (.log2 c.a c.b)
  | 0x1B#8 => .ok (.slog2 c.a c.b)
  | op     => .error (.reservedOpcode op)

/-- The instruction of a 72-bit command word, or the refusal of its reserved opcode. -/
def decode (w : CmdWord) : Decoded := decodeCommand (Command.ofWord w)

/-- R32: the opcode byte of each operation. -/
def Instr.opcode : Instr → Opcode
  | .add _ _   => 0x00
  | .sub _ _   => 0x01
  | .mul _ _   => 0x02
  | .div _ _   => 0x03
  | .mod _ _   => 0x04
  | .sadd _ _  => 0x08
  | .ssub _ _  => 0x09
  | .smul _ _  => 0x0A
  | .sdiv _ _  => 0x0B
  | .sqrt _ _  => 0x10
  | .exp _ _   => 0x11
  | .log _ _   => 0x12
  | .log2 _ _  => 0x13
  | .slog2 _ _ => 0x1B

/-- R30: the word of the `a` field. -/
def Instr.operandA : Instr → Word
  | .add a _ | .sub a _ | .mul a _ | .div a _ | .mod a _ => a
  | .sadd a _ | .ssub a _ | .smul a _ | .sdiv a _ => a
  | .sqrt a _ | .exp a _ | .log a _ | .log2 a _ | .slog2 a _ => a

/-- R30: the word of the `b` field, ignored by the one-operand commands (R33). -/
def Instr.operandB : Instr → Word
  | .add _ b | .sub _ b | .mul _ b | .div _ b | .mod _ b => b
  | .sadd _ b | .ssub _ b | .smul _ b | .sdiv _ b => b
  | .sqrt _ b | .exp _ b | .log _ b | .log2 _ b | .slog2 _ b => b

/-- The command an instruction stands for (R30, R32). -/
def Instr.command (i : Instr) : Command := { op := i.opcode, a := i.operandA, b := i.operandB }

/-- The command word of an instruction. Every instruction is well formed, see WellFormed.lean. -/
def encode (i : Instr) : CmdWord := i.command.toWord

/-- R32: the mnemonic of each operation, upper case (R37). -/
def Instr.mnemonic : Instr → String
  | .add _ _   => "ADD"
  | .sub _ _   => "SUB"
  | .mul _ _   => "MUL"
  | .div _ _   => "DIV"
  | .mod _ _   => "MOD"
  | .sadd _ _  => "SADD"
  | .ssub _ _  => "SSUB"
  | .smul _ _  => "SMUL"
  | .sdiv _ _  => "SDIV"
  | .sqrt _ _  => "SQRT"
  | .exp _ _   => "EXP"
  | .log _ _   => "LOG"
  | .log2 _ _  => "LOG2"
  | .slog2 _ _ => "SLOG2"

/-- The 72-bit command word of an instruction whose bits are `w`, `nbits` of them given and the rest zero (log 11). -/
def tableWord (nbits w : Nat) : CmdWord := BitVec.ofNat 72 (w % 2 ^ nbits)

/-- The instruction the decoder reads from a row's word, numbered as spec/opcode_table.json numbers it: one 72-bit number, bit 0
the least significant bit of the `b` field, the opcode byte in bits 71 to 64. -/
def decodeTableWord (nbits w : Nat) : Option Instr :=
  match decode (tableWord nbits w) with
  | .ok i => some i
  | .error _ => none

end Sys2Proof
end

