-- ==== Sys2Proof/Machine/Constants.lean ====
section
/-! DEFINITION. The wired constants: the named words of R11, the constants of R75 and the table of R76. They are not state. -/

namespace Sys2Proof.Machine

/-- R11, MAX: the largest representable value. -/
def maxWord : Word := 0x7FFFFFFF
/-- R11, MIN: the smallest representable value. -/
def minWord : Word := 0x80000000
/-- R11, SENT: the overflow sentinel, the same word as MIN. -/
def sentWord : Word := 0x80000000
/-- R11, ZERO. -/
def zeroWord : Word := 0x00000000
/-- R11, HALF: 0.5. -/
def halfWord : Word := 0x00008000
/-- R11, ONE: 1.0. -/
def oneWord : Word := 0x00010000
/-- R11, TWO: 2.0. -/
def twoWord : Word := 0x00020000
/-- R11, PI. No operation of the unit uses it. -/
def piWord : Word := 0x0003243F
/-- R11, E, which is R75's E_C: EXP's factor for a positive integer part. -/
def eWord : Word := 0x0002B7E1
/-- R75, INV_E: EXP's factor for a negative integer part. -/
def invEWord : Word := 0x00005E2D
/-- R75, LN2: LOG's factor. -/
def ln2Word : Word := 0x0000B172
/-- R75, X_SAT: the smallest operand whose true exponential exceeds the format. -/
def xSatWord : Word := 0x000A65B0
/-- R75, KNEG: the cap on EXP's multiplications by INV_E. -/
def kNeg : Nat := 13

/-- R71: the number of iterations of the square root recurrence, one per result bit. -/
def sqrtIterations : Nat := 24
/-- R79: the number of fraction bits, and so of squarings, of the logarithm. -/
def log2Iterations : Nat := 16

/-- R76: the table EXP_L, `ln(1 + 2^-k) * 2^30` for k = 0 to 20, in this order. -/
def expTable : List Nat :=
  [0x2C5C85FE, 0x19F323ED, 0x0E47FBE4, 0x0789C1DC, 0x03E14618, 0x01F829B1, 0x00FE0546] ++
  [0x007F80AA, 0x003FE015, 0x001FF803, 0x000FFE00, 0x0007FF80, 0x0003FFE0, 0x0001FFF8] ++
  [0x0000FFFE, 0x00008000, 0x00004000, 0x00002000, 0x00001000, 0x00000800, 0x00000400]

end Sys2Proof.Machine
end

