-- ==== Sys2Proof/Config.lean ====
section
/-! DEFINITION. What is fixed for the machine: its identity (R1) and the format (R2, R7), and the one open parameter's place.

The spec leaves no result word and no flag open (R5), so there is no opaque free value here. Its one open parameter is the
latency LAT (R7, R103). It is not a constant: every clock cycle of State.inputs carries a bit that says whether the open
latency ends in it, so a statement over all inputs holds for every latency. -/

namespace Sys2Proof.Config

/-- R1: the identity a model should carry. -/
def unitName : String := "FIX16 unit"
def unitOrigin : String := "tevfik/pid_fix16"
def unitFormat : String := "Q16.16"
def commandSet : String := "FIX16-CMD v1"

/-- R2, R7: fraction bits of the one number format. -/
def fractionBits : Nat := 16

/-- Whether the work on an accepted command ends in a clock cycle that the schedule of inputs no longer describes.
DESIGN CHOICE (log 2): true, so that a run whose inputs are used up still completes the command in flight.
The number of cycles is open (R103); no statement may rest on this value. -/
def finishUnscheduled : Bool := true

end Sys2Proof.Config
end

