-- ==== Sys2Proof/Machine/State.lean ====
section
/-! DEFINITION. The state of the FIX16 unit as plain data, the reasons a step can stop, and the state after reset. -/

namespace Sys2Proof.Machine

/-- R16: the five values of the state element CAUSE. Their codes are in Flags.lean; codes 5, 6 and 7 never occur, so they are
not representable (log 9). -/
inductive Cause where
  | none       -- 0: the command completed without error
  | overflow   -- 1: the exact result of ADD, SUB, MUL or DIV is not in range
  | divzero    -- 2: the second operand of DIV, SDIV or MOD is zero
  | domain     -- 3: the operand of SQRT is negative, or that of LOG2 or LOG is zero or negative
  | illegalOp  -- 4: the opcode byte is not assigned
deriving DecidableEq, Repr

/-- N9: the triple `(res, cause, sat)` that every operation returns. -/
structure Result where
  res   : Word
  cause : Cause
  sat   : Bool
deriving DecidableEq, Repr

/-- What the input ports carry in one clock cycle (R21), with the one thing the spec leaves open about a cycle: whether the work on
the command in flight ends in it (LAT, R7 and R103; log 1). -/
structure Cycle where
  /-- `rst`: reset, active high, sampled on the clock edge. -/
  rst      : Bool
  /-- `cmd_valid`: the host offers the command on `cmd`. -/
  cmdValid : Bool
  /-- `cmd`: the offered command word. -/
  cmd      : CmdWord
  /-- Not a port: the open latency of the command in flight, if there is one, ends in this cycle. -/
  finish   : Bool
deriving DecidableEq, Repr

/-- Why a step stops with a fault. The unit has no fault: every error is a value in the response (R90), and nothing in it is a
`fault` or `stuck` behaviour (spec/93_implementation_defined.md, part 1). So the type has no constructor (log 13; safe:
no run ends that the hardware would go on with). -/
inductive Fault where
deriving DecidableEq, Repr

/-- Why an instruction has no meaning in the model. -/
inductive Refusal where
  /-- Raised only by an arm of exec whose instruction has not been given its meaning; safe. No arm is left that raises it. -/
  | notModelled (mnemonic : String)
deriving DecidableEq, Repr

/-- The state: the three state elements of R14, the command in flight (R21, R100), the completion strobe (R21), and the
inputs of the coming clock cycles. -/
structure State where
  /-- `RES` (R14): the result word of the last completed command. -/
  res      : Word
  /-- `CAUSE` (R14, R16): the error cause of the last completed command. -/
  cause    : Cause
  /-- `SAT` (R14): the last completed command delivered a clamped value. -/
  sat      : Bool
  /-- The command word copied at accept (R21), until it completes or reset discards it (R100). -/
  inFlight : Option CmdWord
  /-- The strobe `rsp_valid` (R21): a command completed at the last clock edge (log 4). -/
  rspValid : Bool
  /-- The model's own: what the input ports carry in the coming cycles, the next one first (log 2). -/
  inputs   : List Cycle
deriving DecidableEq, Repr

/-- R19, R100: the state after reset. No command is in flight and nothing is offered: the host's commands come from outside
(log 3). -/
def State.reset : State :=
  { res := 0x00000000, cause := .none, sat := false, inFlight := Option.none, rspValid := false, inputs := [] }

end Sys2Proof.Machine
end

