-- ==== Sys2Proof/Machine/Ops.lean ====
section
/-! DEFINITION. The shared operations: the range test, the two delivery policies, the rescaling and truncating integer
functions, and the latch of a result. The unit has no memory and takes no exception: an error is a value (R90), delivered by
errorResult, and there is no return from one (R94). -/

namespace Sys2Proof.Machine

/-- R12, N14: the carve-out. An exact result is in range when it is a word other than the reserved minimum. -/
abbrev inrange (n : Int) : Prop := -2 ^ 31 < n ∧ n ≤ 2 ^ 31 - 1

/-- R17, R90: an error delivers the sentinel with its cause and no clamp flag. -/
def errorResult (c : Cause) : Result := { res := sentWord, cause := c, sat := false }

/-- A result delivered without error and without clamp. -/
def plainResult (w : Word) : Result := { res := w, cause := .none, sat := false }

/-- A clamped value: no error, flagged in SAT (R60, R78, R82). -/
def clampResult (w : Word) : Result := { res := w, cause := .none, sat := true }

/-- R40: the sentinel policy. -/
def deliverSentinel (n : Int) : Result :=
  if inrange n then plainResult (wrap32 n) else errorResult .overflow

/-- R60: the clamp policy. The sign of the exact result decides the boundary. -/
def deliverClamp (n : Int) : Result :=
  if inrange n then plainResult (wrap32 n)
  else if n > 0 then clampResult maxWord
  else clampResult minWord

/-- R43: `p / 65536` rounded to the nearest integer, ties away from zero. -/
def rnd16 (p : Int) : Int :=
  if p ≥ 0 then shr (p + 0x8000) 16 else -(shr (-p + 0x8000) 16)

/-- R45: integer division truncated toward zero. -/
def tdiv (n d : Int) : Int :=
  let q : Int := ((n.natAbs / d.natAbs : Nat) : Int)
  if (n ≥ 0 ↔ d > 0) then q else -q

/-- R22: a completing command writes RES, CAUSE and SAT together, and nothing else (R28). -/
def State.latch (s : State) (r : Result) : State :=
  { s with res := r.res, cause := r.cause, sat := r.sat }

/-- The outcome of a completing command: always a next state. -/
def deliver (r : Result) (s : State) : Host.Outcome State Fault Refusal := .next (s.latch r)

/-- R34: the fixed result of a command whose opcode byte is reserved, whatever its operands hold. -/
def illegalResult : Result := errorResult .illegalOp

end Sys2Proof.Machine
end

