-- ==== Sys2Proof/Machine/CoreArith.lean ====
section
/-! DEFINITION. ADD, SUB, MUL, DIV, MOD (spec/40_core_arith.md): the sentinel policy. -/

namespace Sys2Proof.Machine

/-- R41. -/
def fAdd (a b : Word) : Result := deliverSentinel (signed a + signed b)

/-- R42. -/
def fSub (a b : Word) : Result := deliverSentinel (signed a - signed b)

/-- R44: the exact product, rescaled and rounded (R43), then tested. -/
def fMul (a b : Word) : Result := deliverSentinel (rnd16 (signed a * signed b))

/-- R46: a zero divisor is tested first. -/
def fDiv (a b : Word) : Result :=
  if signed b = 0 then errorResult .divzero
  else deliverSentinel (tdiv (shl (signed a) 16) (signed b))

/-- R47: the remainder of the truncating integer division of the raw words. -/
def fMod (a b : Word) : Result :=
  if signed b = 0 then errorResult .divzero
  else plainResult (wrap32 (signed a - tdiv (signed a) (signed b) * signed b))

/-- R41: ADD latches F_ADD (R22). -/
def execAdd (a b : Word) (s : State) : Host.Outcome State Fault Refusal := deliver (fAdd a b) s

/-- R42: SUB. -/
def execSub (a b : Word) (s : State) : Host.Outcome State Fault Refusal := deliver (fSub a b) s

/-- R44: MUL. -/
def execMul (a b : Word) (s : State) : Host.Outcome State Fault Refusal := deliver (fMul a b) s

/-- R46: DIV. -/
def execDiv (a b : Word) (s : State) : Host.Outcome State Fault Refusal := deliver (fDiv a b) s

/-- R47: MOD. -/
def execMod (a b : Word) (s : State) : Host.Outcome State Fault Refusal := deliver (fMod a b) s

end Sys2Proof.Machine
end

