-- ==== Sys2Proof/Machine/Saturating.lean ====
section
/-! DEFINITION. SADD, SSUB, SMUL, SDIV (spec/41_saturating.md): the clamp policy over the same exact results. -/

namespace Sys2Proof.Machine

/-- R61. -/
def fSadd (a b : Word) : Result := deliverClamp (signed a + signed b)

/-- R62. -/
def fSsub (a b : Word) : Result := deliverClamp (signed a - signed b)

/-- R63. -/
def fSmul (a b : Word) : Result := deliverClamp (rnd16 (signed a * signed b))

/-- R64: a zero divisor is the one error of the family. -/
def fSdiv (a b : Word) : Result :=
  if signed b = 0 then errorResult .divzero
  else deliverClamp (tdiv (shl (signed a) 16) (signed b))

/-- R61: SADD. -/
def execSadd (a b : Word) (s : State) : Host.Outcome State Fault Refusal := deliver (fSadd a b) s

/-- R62: SSUB. -/
def execSsub (a b : Word) (s : State) : Host.Outcome State Fault Refusal := deliver (fSsub a b) s

/-- R63: SMUL. -/
def execSmul (a b : Word) (s : State) : Host.Outcome State Fault Refusal := deliver (fSmul a b) s

/-- R64: SDIV. -/
def execSdiv (a b : Word) (s : State) : Host.Outcome State Fault Refusal := deliver (fSdiv a b) s

end Sys2Proof.Machine
end

