-- ==== Sys2Proof/Machine/ExpLog.lean ====
section
/-! DEFINITION. EXP, LOG2, LOG, SLOG2 (spec/43_explog.md). -/

namespace Sys2Proof.Machine

/-- R77: the remaining exponent `t` (Q0.30) and the accumulator `y` (Q2.30). -/
structure ExpAcc where
  t : Nat
  y : Nat
deriving DecidableEq, Repr

/-- R77: one step of the shift-and-add recurrence, for index `k` and its table entry. -/
def expStep (k entry : Nat) (p : ExpAcc) : ExpAcc :=
  if p.t ≥ entry then { t := p.t - entry, y := p.y + (p.y >>> k) } else p

/-- R77: the steps for the entries of a table, the first of which has index `k`. -/
def expLoop : Nat → List Nat → ExpAcc → ExpAcc
  | _, [], p => p
  | k, entry :: rest, p => expLoop (k + 1) rest (expStep k entry p)

/-- R77: the exponential of the fraction `r / 65536`, in Q16.16. -/
def expFrac (r : Nat) : Nat :=
  let p := expLoop 0 expTable { t := r <<< 14, y := 0x40000000 }
  (p.y + 0x2000) >>> 14

/-- R78: `n` multiplications by the factor `c` with F_SMUL, collecting the clamp flags. -/
def smulChain (c : Word) : Nat → Word → Bool → Result
  | 0, f, sat => { res := f, cause := .none, sat := sat }
  | n + 1, f, sat =>
    let r := fSmul f c
    smulChain c n r.res (sat || r.sat)

/-- R78. -/
def fExp (a : Word) : Result :=
  let x := signed a
  if x ≥ signed xSatWord then clampResult maxWord
  else
    let k := shr x 16
    let r := x - k * 65536
    let f := wrap32 (expFrac r.toNat)
    if k ≥ 0 then smulChain eWord k.toNat f false
    else smulChain invEWord (min (-k).toNat kNeg) f false

/-- R79: the bit scan: the position of the highest set bit of `x` among the bits `k` to 0. -/
def bitScan (x : Nat) : Nat → Nat
  | 0 => 0
  | k + 1 => if x.testBit (k + 1) then k + 1 else bitScan x k

/-- R79: the mantissa `m` (Q1.31) and the fraction bits found so far. -/
structure LogAcc where
  m    : Nat
  frac : Nat
deriving DecidableEq, Repr

/-- R79: one squaring: the square of the mantissa in Q2.62, its top bit the next fraction bit, renormalised with the low bits
discarded. -/
def logStep (p : LogAcc) : LogAcc :=
  let sq := p.m * p.m
  if sq.testBit 63 then { m := slice sq 63 32, frac := (p.frac <<< 1) ||| 1 }
  else { m := slice sq 62 31, frac := p.frac <<< 1 }

/-- R79: `n` squarings. -/
def logLoop : Nat → LogAcc → LogAcc
  | 0, p => p
  | n + 1, p => logLoop n (logStep p)

/-- R79: `log2(x / 65536)` in Q16.16, for `1 ≤ x ≤ 2^31 - 1`. -/
def log2Core (x : Nat) : Int :=
  let n := bitScan x 30
  let m := (x <<< (31 - n)) % 2 ^ 32
  let p := logLoop log2Iterations { m := m, frac := 0 }
  ((n : Int) - 16) * 65536 + p.frac

/-- R80. -/
def fLog2 (a : Word) : Result :=
  if signed a ≤ 0 then errorResult .domain
  else plainResult (wrap32 (log2Core (signed a).toNat))

/-- R81: the domain test is LOG's own. -/
def fLog (a : Word) : Result :=
  if signed a ≤ 0 then errorResult .domain
  else fSmul (wrap32 (log2Core (signed a).toNat)) ln2Word

/-- R82: a non-positive operand is a clamp, not an error. -/
def fSlog2 (a : Word) : Result :=
  if signed a ≤ 0 then clampResult minWord
  else plainResult (wrap32 (log2Core (signed a).toNat))

/-- R78: EXP. The `b` field is ignored (R33), as for the three below. -/
def execExp (a _b : Word) (s : State) : Host.Outcome State Fault Refusal := deliver (fExp a) s

/-- R81: LOG. -/
def execLog (a _b : Word) (s : State) : Host.Outcome State Fault Refusal := deliver (fLog a) s

/-- R80: LOG2. -/
def execLog2 (a _b : Word) (s : State) : Host.Outcome State Fault Refusal := deliver (fLog2 a) s

/-- R82: SLOG2. -/
def execSlog2 (a _b : Word) (s : State) : Host.Outcome State Fault Refusal := deliver (fSlog2 a) s

end Sys2Proof.Machine
end

