-- ==== Sys2Proof/Machine/Sqrt.lean ====
section
/-! DEFINITION. SQRT (spec/42_sqrt.md): the digit recurrence of R71 and the rounding of R70. -/

namespace Sys2Proof.Machine

/-- R71: the root so far and the remainder so far. -/
structure RootRem where
  root : Nat
  rem  : Nat
deriving DecidableEq, Repr

/-- R71: one iteration, for index `i`: bring down the next two bits of `N`, compare with `4 * root + 1`, subtract if it fits. -/
def isqrtStep (N i : Nat) (p : RootRem) : RootRem :=
  let rem := (p.rem <<< 2) ||| ((N >>> (2 * i)) &&& 3)
  let trial := (p.root <<< 2) ||| 1
  if rem ≥ trial then { root := (p.root <<< 1) ||| 1, rem := rem - trial }
  else { root := p.root <<< 1, rem := rem }

/-- R71: the iterations for the indices `n - 1` down to 0. -/
def isqrtLoop (N : Nat) : Nat → RootRem → RootRem
  | 0, p => p
  | i + 1, p => isqrtLoop N i (isqrtStep N i p)

/-- R71: the integer square root of a radicand below `2^48`, with its remainder, in exactly 24 iterations. -/
def isqrt48 (N : Nat) : RootRem := isqrtLoop N sqrtIterations { root := 0, rem := 0 }

/-- R70. -/
def fSqrt (a : Word) : Result :=
  if signed a < 0 then errorResult .domain
  else
    let p := isqrt48 (shl (signed a) 16).toNat
    let root := if p.rem > p.root then p.root + 1 else p.root
    plainResult (wrap32 root)

/-- R70: SQRT. The `b` field is ignored (R33). -/
def execSqrt (a _b : Word) (s : State) : Host.Outcome State Fault Refusal := deliver (fSqrt a) s

end Sys2Proof.Machine
end

