-- ==== Sys2Proof/Machine/Dispatch.lean ====
section
/-! DEFINITION. The dispatch: one arm per constructor of Instr. -/

namespace Sys2Proof.Machine

def exec (i : Instr) (s : State) : Host.Outcome State Fault Refusal :=
  match i with
  -- spec/40_core_arith.md
  | .add a b => Sys2Proof.Machine.execAdd a b s
  | .sub a b => Sys2Proof.Machine.execSub a b s
  | .mul a b => Sys2Proof.Machine.execMul a b s
  | .div a b => Sys2Proof.Machine.execDiv a b s
  | .mod a b => Sys2Proof.Machine.execMod a b s
  -- spec/41_saturating.md
  | .sadd a b => Sys2Proof.Machine.execSadd a b s
  | .ssub a b => Sys2Proof.Machine.execSsub a b s
  | .smul a b => Sys2Proof.Machine.execSmul a b s
  | .sdiv a b => Sys2Proof.Machine.execSdiv a b s
  -- spec/42_sqrt.md
  | .sqrt a b => Sys2Proof.Machine.execSqrt a b s
  -- spec/43_explog.md
  | .exp a b => Sys2Proof.Machine.execExp a b s
  | .log a b => Sys2Proof.Machine.execLog a b s
  | .log2 a b => Sys2Proof.Machine.execLog2 a b s
  | .slog2 a b => Sys2Proof.Machine.execSlog2 a b s

end Sys2Proof.Machine
end

