-- ==== Sys2Proof/Machine/Flags.lean ====
section
/-! DEFINITION. The flags: cause codes (R16), the status byte (R15), the response word (R35), and the bit tests of overflow that
R41, R42 and R44 give as equal forms of the range test. -/

namespace Sys2Proof.Machine

/-- R16: the code of each cause, the value of the 3-bit state element. -/
def Cause.code : Cause → BitVec 3
  | .none      => 0
  | .overflow  => 1
  | .divzero   => 2
  | .domain    => 3
  | .illegalOp => 4

/-- R15, ERR: the OR of the three CAUSE bits. -/
def Cause.err (c : Cause) : Bool := c.code[0] || c.code[1] || c.code[2]

/-- R15: the status byte `{000, CAUSE[2:0], SAT, ERR}`. -/
def statusByte (c : Cause) (sat : Bool) : BitVec 8 :=
  (0#3 ++ c.code) ++ (BitVec.ofBool sat ++ BitVec.ofBool c.err)

/-- R35: the response word `{STATUS, RES}` of a result. -/
def Result.response (r : Result) : RspWord := statusByte r.cause r.sat ++ r.res

/-- R15: STATUS as the response port shows it. -/
def State.status (s : State) : BitVec 8 := statusByte s.cause s.sat

/-- R14, N9: the three state elements as a triple. -/
def State.result (s : State) : Result := { res := s.res, cause := s.cause, sat := s.sat }

/-- R21, R35: `rsp`, which always shows the current state elements. Reading it changes nothing (R24). -/
def State.rsp (s : State) : RspWord := s.result.response

/-- R41: the sign test of a 32-bit sum: both operands share a sign and the sum's sign differs. -/
def addSignOverflow (a b : Word) : Bool := a.msb == b.msb && (a + b).msb != a.msb

/-- R42: the sign test of a 32-bit difference, in its corrected form. -/
def subSignOverflow (a b : Word) : Bool := a.msb != b.msb && (a - b).msb != a.msb

/-- R41: the hardware detector of ADD, the sign test or the reserved word. -/
def addDetector (a b : Word) : Bool := addSignOverflow a b || a + b == sentWord

/-- R42: the hardware detector of SUB. -/
def subDetector (a b : Word) : Bool := subSignOverflow a b || a - b == sentWord

/-- R44: the hardware detector of MUL on the rounded result as a 48-bit signed value: bits 47 to 31 are not all equal, or it is
`-2^31`. -/
def mulDetector (q : BitVec 48) : Bool :=
  let top : BitVec 17 := q.extractLsb' 31 17
  (top != 0 && top != BitVec.allOnes 17) || q == BitVec.ofInt 48 (-2 ^ 31)

end Sys2Proof.Machine
end

