-- ==== Sys2Proof/Machine/Cycle.lean ====
section
/-! DEFINITION. One clock cycle: the ports of R21, reset (R100), accept, work and completion (R22). -/

namespace Sys2Proof.Machine

/-- The inputs of a cycle the schedule no longer describes: no reset, nothing offered (log 2). -/
def idleCycle : Cycle := { rst := false, cmdValid := false, cmd := 0, finish := Config.finishUnscheduled }

/-- What the input ports carry in the current cycle. -/
def State.cycle (s : State) : Cycle := s.inputs.headD idleCycle

/-- The current cycle is over: its inputs are gone. -/
def State.nextInputs (s : State) : State := { s with inputs := s.inputs.tail }

/-- R21, R100: `cmd_ready`. Low from the accept of a command to its completion, and low while `rst = 1`. -/
def State.cmdReady (s : State) : Bool := !s.cycle.rst && s.inFlight.isNone

/-- R21, R100: the port `rsp_valid`: the completion strobe, held low while `rst = 1` (log 5). -/
def State.rspValidPort (s : State) : Bool := !s.cycle.rst && s.rspValid

/-- R21: the command is accepted in a cycle with `cmd_valid = 1`, `cmd_ready = 1` and `rst = 0`. -/
def State.accepts (s : State) : Bool := s.cmdReady && s.cycle.cmdValid

/-- R100: the effects of reset, all at once. -/
def State.resetUnit (s : State) : State :=
  { s with res := 0x00000000, cause := .none, sat := false, inFlight := Option.none, rspValid := false }

/-- R21: the unit copies `cmd` at accept. -/
def State.accept (s : State) (w : CmdWord) : State :=
  { s with inFlight := some w, rspValid := false }

/-- A cycle in which nothing completes and nothing is accepted: RES, CAUSE, SAT and the command in flight are held (R22, R98); the
strobe of an earlier completion ends (R21 "for one cycle"). -/
def State.hold (s : State) : State := { s with rspValid := false }

/-- R21: the bookkeeping of a completion: the command leaves the unit and `rsp_valid` is raised. -/
def State.endFlight (s : State) : State := { s with inFlight := Option.none, rspValid := true }

/-- R22, R34, R36: what a completing command word does to the result latch: its instruction's effect, or ILLEGAL_OP for a reserved
opcode byte. -/
def completeWord (w : CmdWord) (s : State) : Host.Outcome State Fault Refusal :=
  match decode w with
  | .ok i => exec i s
  | .error (.reservedOpcode _) => deliver illegalResult s

/-- One rising edge of `clk`. Reset wins over everything (R100, log 5). A command in flight completes in the cycle in which its
latency ends (R21, R22, R103) and holds off every other command until then (R25). -/
def clockEdge (s : State) : Host.Outcome State Fault Refusal :=
  let c := s.cycle
  let t := s.nextInputs
  if c.rst then .next t.resetUnit
  else
    match s.inFlight with
    | some w => if c.finish then completeWord w t.endFlight else .next t.hold
    | none => if c.cmdValid then .next (t.accept c.cmd) else .next t.hold

/-- The cycle in which an accepted command completes: no reset, nothing offered, the latency ends. -/
def completionCycle : Cycle := { rst := false, cmdValid := false, cmd := 0, finish := true }

/-- The unit with the command word `w` accepted, its latency ending in the very next cycle (log 3). -/
def State.place (s : State) (w : CmdWord) : State :=
  { s with inFlight := some w, inputs := completionCycle :: s.inputs }

end Sys2Proof.Machine
end

