-- ==== Sys2Proof/Machine/Step.lean ====
section
/-! DEFINITION. The step of the machine: one clock cycle. -/

namespace Sys2Proof.Machine

/-- One step: one rising edge of `clk` (R21, R100). -/
def step (s : State) : Host.Outcome State Fault Refusal := clockEdge s

/-- The machine with an instruction's word where the step takes its next instruction from: as the accepted command, whose latency
ends in the next cycle, so that the very next step completes it (log 3, log 11). -/
def State.withFetchWord (s : State) (nbits w : Nat) : State := s.place (tableWord nbits w)

end Sys2Proof.Machine
end

