-- ==== Sys2Proof/Machine/Operands.lean ====
section
/-! DEFINITION. The operand forms. In a command both operands are complete words taken as they are (R30). This file holds the forms a
listing may write (R37, N12, N13), what word each stands for, and the listing's text of a word (R23). The unit itself sees
only the words; a listing is host side. -/

namespace Sys2Proof.Machine

/-- R37: the named words a listing may use. -/
inductive NamedWord where
  | max | min | zero | half | one | two | pi | e | ln2
deriving DecidableEq, Repr

/-- R11, R75: the word of each name. -/
def NamedWord.word : NamedWord → Word
  | .max  => maxWord
  | .min  => minWord
  | .zero => zeroWord
  | .half => halfWord
  | .one  => oneWord
  | .two  => twoWord
  | .pi   => piWord
  | .e    => eWord
  | .ln2  => ln2Word

/-- R37: an operand of a listing line. -/
inductive Operand where
  /-- A hexadecimal word. -/
  | hex (w : Word)
  /-- One of the named words. -/
  | named (n : NamedWord)
  /-- `from_int(n)`. -/
  | fromInt (n : Int)
  /-- `fx(q)` for the decimal `q = digits / 10^places`. -/
  | fx (digits : Int) (places : Nat)
  /-- `RES`: the host copies the result word of the previous response into the field. -/
  | res
deriving DecidableEq, Repr

/-- N12: `from_int(n)`, defined for `-32768 ≤ n ≤ 32767`. -/
def fromInt (n : Int) : Option Word :=
  if -32768 ≤ n ∧ n ≤ 32767 then some (wrap32 (n * 65536)) else none

/-- N12: `fx(q)`, defined for a decimal `q` that is an exact multiple of `2^-16`, and here in the range of the format (log 15). -/
def fxWord (digits : Int) (places : Nat) : Option Word :=
  let n := digits * 65536
  let d : Int := 10 ^ places
  if n % d = 0 ∧ -2 ^ 31 ≤ n / d ∧ n / d ≤ 2 ^ 31 - 1 then some (wrap32 (n / d)) else none

/-- R37: the word an operand stands for, given the RES word of the previous response. -/
def Operand.word (prev : Word) : Operand → Option Word
  | .hex w => some w
  | .named n => some n.word
  | .fromInt n => Sys2Proof.Machine.fromInt n
  | .fx digits places => fxWord digits places
  | .res => some prev

/-- R37: the 14 mnemonics. -/
inductive Mnemonic where
  | add | sub | mul | div | mod | sadd | ssub | smul | sdiv | sqrt | exp | log | log2 | slog2
deriving DecidableEq, Repr

/-- R32: the instruction of a mnemonic with its two operand words. -/
def Mnemonic.instr (a b : Word) : Mnemonic → Instr
  | .add   => .add a b
  | .sub   => .sub a b
  | .mul   => .mul a b
  | .div   => .div a b
  | .mod   => .mod a b
  | .sadd  => .sadd a b
  | .ssub  => .ssub a b
  | .smul  => .smul a b
  | .sdiv  => .sdiv a b
  | .sqrt  => .sqrt a b
  | .exp   => .exp a b
  | .log   => .log a b
  | .log2  => .log2 a b
  | .slog2 => .slog2 a b

/-- R33: the nine two-operand commands use both fields, the five others `a` only. -/
def Mnemonic.usesB : Mnemonic → Bool
  | .add | .sub | .mul | .div | .mod | .sadd | .ssub | .smul | .sdiv => true
  | .sqrt | .exp | .log | .log2 | .slog2 => false

/-- R37: a line of a listing: a mnemonic with one or two operands, or a command word written out. -/
inductive Line where
  | instr (m : Mnemonic) (a : Operand) (b : Option Operand)
  | cmd (w : CmdWord)
deriving DecidableEq, Repr

/-- R37: the command word of a listing line. Two-operand mnemonics need both operands; one-operand mnemonics take one, and the `b`
field is encoded as zero. -/
def Line.assemble (prev : Word) : Line → Option CmdWord
  | .cmd w => some w
  | .instr m a b =>
    match a.word prev, m.usesB, b with
    | some wa, true, some ob =>
      match ob.word prev with
      | some wb => some (encode (m.instr wa wb))
      | none => none
    | some wa, false, none => some (encode (m.instr wa 0))
    | _, _, _ => none

/-- One hexadecimal digit. -/
def hexDigit (d : Nat) : Char :=
  if d < 10 then Char.ofNat (48 + d) else Char.ofNat (55 + d)

/-- R23: a number as `n` hexadecimal digits, most significant first. -/
def hexText : Nat → Nat → List Char
  | 0, _ => []
  | n + 1, x => hexDigit (x / 16 ^ n % 16) :: hexText n x

/-- R23: the 18 digits of a command word. -/
def cmdText (w : CmdWord) : List Char := hexText 18 w.toNat

/-- R23: the 10 digits of a response word. -/
def rspText (w : RspWord) : List Char := hexText 10 w.toNat

end Sys2Proof.Machine
end

