-- ==== Sys2Proof/Machine/Execute.lean ====
section
/-! DEFINITION. R36's `execute`, from the fields of a command straight to the result triple, total on all 2^72 commands. The step
does not use it: the step decodes and dispatches. That the two agree is a statement. -/

namespace Sys2Proof.Machine

/-- R36: the total function from a command to a result triple. -/
def execute (op : Opcode) (a b : Word) : Result :=
  match op with
  | 0x00#8 => fAdd a b
  | 0x01#8 => fSub a b
  | 0x02#8 => fMul a b
  | 0x03#8 => fDiv a b
  | 0x04#8 => fMod a b
  | 0x08#8 => fSadd a b
  | 0x09#8 => fSsub a b
  | 0x0A#8 => fSmul a b
  | 0x0B#8 => fSdiv a b
  | 0x10#8 => fSqrt a
  | 0x11#8 => fExp a
  | 0x12#8 => fLog a
  | 0x13#8 => fLog2 a
  | 0x1B#8 => fSlog2 a
  | _      => illegalResult

/-- R22, R36: the result triple of a command word. -/
def executeWord (w : CmdWord) : Result :=
  let c := Command.ofWord w
  execute c.op c.a c.b

/-- R22: the transaction rule: accept and completion of one command merged into one atomic step of the three state elements. -/
def State.transact (s : State) (w : CmdWord) : State := s.latch (executeWord w)

end Sys2Proof.Machine
end

