-- ==== Sys2Proof/Machine/HostSide.lean ====
section
/-! DEFINITION. What the host sees of a run: the commands accepted (R21) and the responses taken (R102), over a number of clock
cycles. -/

namespace Sys2Proof.Machine

/-- The state after `n` clock cycles. A step never stops (R90); where it did, the state would stay. -/
def State.after : Nat → State → State
  | 0, s => s
  | n + 1, s =>
    match step s with
    | .next t => State.after n t
    | _ => s

/-- R21: the command words accepted in the first `n` cycles, in accept order. -/
def accepted : Nat → State → List CmdWord
  | 0, _ => []
  | n + 1, s => (if s.accepts then [s.cycle.cmd] else []) ++ accepted n (State.after 1 s)

/-- R102: the response words taken in the first `n` cycles by a host that reads `rsp` whenever `rsp_valid` is high. -/
def responses : Nat → State → List RspWord
  | 0, _ => []
  | n + 1, s => (if s.rspValidPort then [s.rsp] else []) ++ responses n (State.after 1 s)

/-- The responses still owed at a state: the one whose strobe is high now, and the one of the command in flight. -/
def owed (s : State) : List RspWord :=
  (if s.rspValid then [s.rsp] else []) ++
    (match s.inFlight with
     | some w => [(executeWord w).response]
     | none => [])

/-- A cycle in which the host offers the command word `w`. -/
def offerCycle (w : CmdWord) : Cycle := { rst := false, cmdValid := true, cmd := w, finish := false }

/-- A cycle in which the unit works on: no reset, and the latency does not end. -/
def Cycle.working (c : Cycle) : Bool := !c.rst && !c.finish

/-- A cycle in which the unit completes its command: no reset, and the latency ends. -/
def Cycle.finishing (c : Cycle) : Bool := !c.rst && c.finish

end Sys2Proof.Machine
end

