-- ==== Sys2Proof/Safety.lean ====
section
/-! DEFINITION. What holds of every state a run reaches: the status invariants of R17 and the handshake invariant of R21. -/

namespace Sys2Proof.Machine

/-- R17, items 1 to 3: an error delivers the sentinel and no clamp; a clamp is no error and delivers a boundary word; without error
and clamp the reserved word is not delivered. -/
abbrev Result.sound (r : Result) : Prop :=
  (r.cause ≠ .none → r.res = 0x80000000 ∧ r.sat = false) ∧
  (r.sat = true → r.cause = .none ∧ (r.res = 0x7FFFFFFF ∨ r.res = 0x80000000)) ∧
  (r.cause = .none → r.sat = false → r.res ≠ 0x80000000)

/-- The three state elements of R14 hold these values. -/
abbrev State.shows (s : State) (w : Word) (c : Cause) (sat : Bool) : Prop :=
  s.res = w ∧ s.cause = c ∧ s.sat = sat

/-- R28: the frame of a command. Everything of the state but RES, CAUSE and SAT is as it was. -/
abbrev State.sameRest (s t : State) : Prop :=
  t.inFlight = s.inFlight ∧ t.rspValid = s.rspValid ∧ t.inputs = s.inputs

/-- The invariant of the unit: the result latch is sound (R17), and in the cycle after a completion no command is in flight
(R21, R25). -/
abbrev State.wf (s : State) : Prop :=
  s.result.sound ∧ (s.rspValid = true → s.inFlight = none)

end Sys2Proof.Machine
end

