-- ==== Sys2Proof/Certificates/Slice0/Obligations.lean ====
section
/-! DEFINITION. The statements for the provers. Each docstring names the rule of spec/ it formalises; a clause that rests on a choice of
the model says so and names the log entry. -/

open Sys2Proof Sys2Proof.Machine

/-! ### Reset and invariants -/

/-- R19: the state after reset, and the response port as it then reads. -/
def Obligations.ResetStateValues : Prop :=
  State.reset.shows 0x00000000 .none false ∧ State.reset.status = 0x00 ∧ State.reset.rsp = 0x0000000000 ∧
    State.reset.inFlight = none

/-- R17 and the handshake invariant hold at reset. -/
def Obligations.ResetSatisfiesWf : Prop := State.reset.wf

/-- R17 as an inductive invariant: every step, from every state that meets it, keeps it. Its handshake part speaks of the registered
strobe, the model's choice (log 4). -/
def Obligations.StepKeepsWf : Prop :=
  ∀ s t : State, s.wf → step s = .next t → t.wf

/-- R17: after every completed command, from whatever state, and after reset, the status invariants hold. Item 4 of the rule in its
own words: the reserved word in RES has exactly two readings, and STATUS tells them apart. -/
def Obligations.CompletedCommandIsSound : Prop :=
  ∀ t : State, (t = State.reset ∨ ∃ (w : CmdWord) (s : State), completeWord w s = .next t) →
    (t.cause ≠ .none → t.res = 0x80000000 ∧ t.sat = false) ∧
    (t.sat = true → t.cause = .none ∧ (t.res = 0x7FFFFFFF ∨ t.res = 0x80000000)) ∧
    (t.cause = .none → t.sat = false → t.res ≠ 0x80000000) ∧
    (t.res = 0x80000000 →
      (t.cause ≠ .none ∧ (t.status = 0x05 ∨ t.status = 0x09 ∨ t.status = 0x0D ∨ t.status = 0x11)) ∨
      (t.sat = true ∧ t.status = 0x02))

/-! ### Encoding -/

/-- Words written out from R30 and R32 decode to the instructions they stand for. -/
def Obligations.DecodeSampleWords : Prop :=
  decode 0x000005000000030000 = .ok (.add 0x00050000 0x00030000) ∧
  decode 0x047FFFFFFF80000000 = .ok (.mod 0x7FFFFFFF 0x80000000) ∧
  decode 0x0A7FFFFFFF00020000 = .ok (.smul 0x7FFFFFFF 0x00020000) ∧
  decode 0x1000040000DEADBEEF = .ok (.sqrt 0x00040000 0xDEADBEEF) ∧
  decode 0x12000A000000000000 = .ok (.log 0x000A0000 0x00000000) ∧
  decode 0x1B0000000000000000 = .ok (.slog2 0x00000000 0x00000000) ∧
  decode 0x0C0001000000020000 = .error (.reservedOpcode 0x0C)

/-- Decoding gives back every encoded instruction, with every operand at every value, and encoding gives back every word that
decodes. -/
def Obligations.DecodeEncodeRoundTrip : Prop :=
  (∀ i : Instr, decode (encode i) = .ok i) ∧
  (∀ (w : CmdWord) (i : Instr), decode w = .ok i → encode i = w)

/-- R32: a command word selects the row of the table when `w & mask = match`, and then carries the row's operands. -/
def Obligations.OpcodeMapSelectsRow : Prop :=
  ∀ row ∈ [("ADD", 0x000000000000000000#72), ("SUB", 0x010000000000000000#72), ("MUL", 0x020000000000000000#72),
      ("DIV", 0x030000000000000000#72), ("MOD", 0x040000000000000000#72), ("SADD", 0x080000000000000000#72),
      ("SSUB", 0x090000000000000000#72), ("SMUL", 0x0A0000000000000000#72), ("SDIV", 0x0B0000000000000000#72),
      ("SQRT", 0x100000000000000000#72), ("EXP", 0x110000000000000000#72), ("LOG", 0x120000000000000000#72),
      ("LOG2", 0x130000000000000000#72), ("SLOG2", 0x1B0000000000000000#72)],
    ∀ w : CmdWord, w &&& 0xFF0000000000000000#72 = row.2 ↔
      ∃ i, decode w = .ok i ∧ i.mnemonic = row.1 ∧
        i.operandA = w.extractLsb' 32 32 ∧ i.operandB = w.extractLsb' 0 32

/-- R33: the nine two-operand commands use both fields, the five one-operand commands ignore `b`, for which the assembler writes
zero; a non-zero `b` makes no reserved command of them. -/
def Obligations.OneOperandCommandsIgnoreB : Prop :=
  (∀ op ∈ [0x10#8, 0x11#8, 0x12#8, 0x13#8, 0x1B#8], ∀ (a b b' : Word) (s : State),
    completeWord (Command.mk op a b).toWord s = completeWord (Command.mk op a b').toWord s ∧
    ∃ i, decode (Command.mk op a b).toWord = .ok i) ∧
  (∀ op ∈ [0x00#8, 0x01#8, 0x02#8, 0x03#8, 0x04#8, 0x08#8, 0x09#8, 0x0A#8, 0x0B#8],
    (∃ (a b b' : Word) (s : State),
      completeWord (Command.mk op a b).toWord s ≠ completeWord (Command.mk op a b').toWord s) ∧
    (∃ (a a' b : Word) (s : State),
      completeWord (Command.mk op a b).toWord s ≠ completeWord (Command.mk op a' b).toWord s)) ∧
  (∀ (m : Mnemonic) (a prev : Word), m.usesB = false →
    Line.assemble prev (.instr m (.hex a) none) = some (encode (m.instr a 0)))

/-- R34: the 242 reserved opcode bytes complete like any other command with the fixed result, whatever the operands hold. -/
def Obligations.ReservedOpcodeDeliversIllegalOp : Prop :=
  (∀ (op : Opcode) (a b : Word) (s : State),
    op ∉ [0x00#8, 0x01#8, 0x02#8, 0x03#8, 0x04#8, 0x08#8, 0x09#8, 0x0A#8, 0x0B#8, 0x10#8, 0x11#8, 0x12#8, 0x13#8, 0x1B#8] →
    completeWord (Command.mk op a b).toWord s =
      .next { s with res := 0x80000000, cause := .illegalOp, sat := false }) ∧
  ((List.range 256).filter (fun n => BitVec.ofNat 8 n ∉
    [0x00#8, 0x01#8, 0x02#8, 0x03#8, 0x04#8, 0x08#8, 0x09#8, 0x0A#8, 0x0B#8, 0x10#8, 0x11#8, 0x12#8, 0x13#8, 0x1B#8])).length
    = 242

/-- R36: decoding is the three fields of the word and is inverse to the concatenation, and what a completing word latches is
`execute` of its fields: the one place where the rule gives every opcode its function. -/
def Obligations.CompletionLatchesExecute : Prop :=
  (∀ w : CmdWord, (Command.ofWord w).toWord = w) ∧ (∀ c : Command, Command.ofWord c.toWord = c) ∧
  (∀ (w : CmdWord) (s : State), completeWord w s = .next (s.latch
    (execute (w.extractLsb' 64 8) (w.extractLsb' 32 32) (w.extractLsb' 0 32)))) ∧
  (∀ a b : Word,
    execute 0x00 a b = fAdd a b ∧ execute 0x01 a b = fSub a b ∧ execute 0x02 a b = fMul a b ∧
    execute 0x03 a b = fDiv a b ∧ execute 0x04 a b = fMod a b ∧ execute 0x08 a b = fSadd a b ∧
    execute 0x09 a b = fSsub a b ∧ execute 0x0A a b = fSmul a b ∧ execute 0x0B a b = fSdiv a b ∧
    execute 0x10 a b = fSqrt a ∧ execute 0x11 a b = fExp a ∧ execute 0x12 a b = fLog a ∧
    execute 0x13 a b = fLog2 a ∧ execute 0x1B a b = fSlog2 a ∧
    ∀ op : Opcode, op ∉ assignedOpcodes → execute op a b = { res := 0x80000000, cause := .illegalOp, sat := false })

/-! ### Status and response -/

/-- R15: the fields of the status byte, and the byte values that can occur: exactly six. -/
def Obligations.StatusByteFields : Prop :=
  (∀ s : State, (s.status.getLsbD 0 = true ↔ s.cause ≠ .none) ∧ s.status.getLsbD 1 = s.sat ∧
    s.status.extractLsb' 2 3 = s.cause.code ∧ s.status.extractLsb' 5 3 = 0) ∧
  [Cause.none, .overflow, .divzero, .domain, .illegalOp].map Cause.code = [0, 1, 2, 3, 4] ∧
  (∀ s : State, s.result.sound → s.status ∈ [0x00#8, 0x02#8, 0x05#8, 0x09#8, 0x0D#8, 0x11#8]) ∧
  (∀ v ∈ [0x00#8, 0x02#8, 0x05#8, 0x09#8, 0x0D#8, 0x11#8], ∃ (w : CmdWord) (s t : State),
    completeWord w s = .next t ∧ t.status = v)

/-- R35: the response word shows the status byte above the result word, always of the current state. -/
def Obligations.ResponseWordFields : Prop :=
  ∀ s : State, s.rsp.extractLsb' 32 8 = s.status ∧ s.rsp.extractLsb' 0 32 = s.res

/-! ### Core arithmetic -/

/-- R41: ADD. -/
def Obligations.AddResult : Prop :=
  ∀ (a b : Word) (s : State), (encode (.add a b)).extractLsb' 64 8 = 0x00#8 ∧
    ∃ t, exec (.add a b) s = .next t ∧ s.sameRest t ∧ t.sat = false ∧
      (-2 ^ 31 < signed a + signed b ∧ signed a + signed b ≤ 2 ^ 31 - 1 →
        signed t.res = signed a + signed b ∧ t.cause = .none) ∧
      (signed a + signed b ≥ 2 ^ 31 ∨ signed a + signed b ≤ -2 ^ 31 → t.res = 0x80000000 ∧ t.cause = .overflow)

/-- R42: SUB. -/
def Obligations.SubResult : Prop :=
  ∀ (a b : Word) (s : State), (encode (.sub a b)).extractLsb' 64 8 = 0x01#8 ∧
    ∃ t, exec (.sub a b) s = .next t ∧ s.sameRest t ∧ t.sat = false ∧
      (-2 ^ 31 < signed a - signed b ∧ signed a - signed b ≤ 2 ^ 31 - 1 →
        signed t.res = signed a - signed b ∧ t.cause = .none) ∧
      (signed a - signed b ≥ 2 ^ 31 ∨ signed a - signed b ≤ -2 ^ 31 → t.res = 0x80000000 ∧ t.cause = .overflow)

/-- R43: the rescaling of a product rounds to the nearest integer, a tie away from zero, and is symmetric in sign. -/
def Obligations.ProductRounding : Prop :=
  ∀ p : Int,
    2 * |rnd16 p * 65536 - p| ≤ 65536 ∧
    (2 * |rnd16 p * 65536 - p| = 65536 → |p| < |rnd16 p * 65536|) ∧
    rnd16 (-p) = -rnd16 p

/-- R44: MUL. `p` is the exact product and `q` its rounding, written with magnitudes; a product that overflows by its rounding alone
is an overflow. -/
def Obligations.MulResult : Prop :=
  ∀ (a b : Word) (p q : Int) (s : State), p = signed a * signed b → q = p.sign * ((|p| + 0x8000) / 65536) →
    (encode (.mul a b)).extractLsb' 64 8 = 0x02#8 ∧
    ∃ t, exec (.mul a b) s = .next t ∧ s.sameRest t ∧ t.sat = false ∧
      (-2 ^ 31 < q ∧ q ≤ 2 ^ 31 - 1 → signed t.res = q ∧ t.cause = .none) ∧
      (q ≥ 2 ^ 31 ∨ q ≤ -2 ^ 31 → t.res = 0x80000000 ∧ t.cause = .overflow) ∧
      (2 ^ 47 - 2 ^ 15 ≤ p ∧ p ≤ 2 ^ 47 - 1 → p / 65536 = 2 ^ 31 - 1 ∧ q = 2 ^ 31 ∧ t.cause = .overflow)

/-- The bit tests that R41, R42 and R44 give as equal forms of their range tests (the spec's own derivations): the sign tests and
detectors of ADD and SUB, the 48-bit detector and the 64-bit test of MUL, and R43's form of the rounding without negation. -/
def Obligations.OverflowBitTests : Prop :=
  (∀ (a b : Word) (s t : State), exec (.add a b) s = .next t →
    ((a.msb = b.msb ∧ (wrap32 (signed a + signed b)).msb ≠ a.msb) ↔
      ¬ (-2 ^ 31 ≤ signed a + signed b ∧ signed a + signed b ≤ 2 ^ 31 - 1)) ∧
    (t.cause = .overflow ↔ addDetector a b = true)) ∧
  (∀ (a b : Word) (s t : State), exec (.sub a b) s = .next t →
    ((a.msb ≠ b.msb ∧ (wrap32 (signed a - signed b)).msb ≠ a.msb) ↔
      ¬ (-2 ^ 31 ≤ signed a - signed b ∧ signed a - signed b ≤ 2 ^ 31 - 1)) ∧
    (t.cause = .overflow ↔ subDetector a b = true)) ∧
  (∀ (a b : Word) (s t : State), exec (.mul a b) s = .next t →
    (t.cause = .overflow ↔ mulDetector (BitVec.ofInt 48 (rnd16 (signed a * signed b))) = true) ∧
    (((BitVec.ofInt 64 (signed a * signed b)).extractLsb' 47 17 = 0 ∨
      (BitVec.ofInt 64 (signed a * signed b)).extractLsb' 47 17 = BitVec.allOnes 17) ↔
      (-2 ^ 31 ≤ signed a * signed b / 65536 ∧ signed a * signed b / 65536 ≤ 2 ^ 31 - 1))) ∧
  (∀ p : Int, rnd16 p = (p + 0x8000 - (if p < 0 then 1 else 0)) / 65536)

/-- R45: the integer division truncates toward zero. -/
def Obligations.TruncatingDivision : Prop :=
  ∀ n d : Int, d ≠ 0 →
    |tdiv n d * d| ≤ |n| ∧ |n - tdiv n d * d| < |d| ∧
    (n - tdiv n d * d = 0 ∨ (n - tdiv n d * d).sign = n.sign) ∧
    tdiv n d = (if (n ≥ 0 ↔ d > 0) then |n| / |d| else -(|n| / |d|))

/-- R46: DIV. The quotient is the one with a remainder that is zero or of the sign of `a`. -/
def Obligations.DivResult : Prop :=
  ∀ (a b : Word) (s : State), (encode (.div a b)).extractLsb' 64 8 = 0x03#8 ∧
    ∃ t, exec (.div a b) s = .next t ∧ s.sameRest t ∧ t.sat = false ∧
      (b = 0 → t.res = 0x80000000 ∧ t.cause = .divzero) ∧
      (b ≠ 0 → ∃ q r : Int, signed a * 65536 = q * signed b + r ∧ |r| < |signed b| ∧ (r = 0 ∨ r.sign = (signed a).sign) ∧
        (-2 ^ 31 < q ∧ q ≤ 2 ^ 31 - 1 → signed t.res = q ∧ t.cause = .none) ∧
        (q ≥ 2 ^ 31 ∨ q ≤ -2 ^ 31 → t.res = 0x80000000 ∧ t.cause = .overflow))

/-- R47: MOD. The result has the sign of the dividend, and never overflows. -/
def Obligations.ModResult : Prop :=
  ∀ (a b : Word) (s : State), (encode (.mod a b)).extractLsb' 64 8 = 0x04#8 ∧
    ∃ t, exec (.mod a b) s = .next t ∧ s.sameRest t ∧ t.sat = false ∧
      (b = 0 → t.res = 0x80000000 ∧ t.cause = .divzero) ∧
      (b ≠ 0 → t.cause = .none ∧ t.res ≠ 0x80000000 ∧
        ∃ k : Int, signed a = k * signed b + signed t.res ∧ |signed t.res| < |signed b| ∧
          (signed t.res = 0 ∨ (signed t.res).sign = (signed a).sign))

/-- R38: SUB from zero negates, and overflows at the minimum alone. -/
def Obligations.SubFromZeroNegates : Prop :=
  ∀ (a : Word) (s : State), ∃ t, exec (.sub 0 a) s = .next t ∧
    (a ≠ 0x80000000 → t.res = -a ∧ t.cause = .none) ∧
    (a = 0x80000000 → t.res = 0x80000000 ∧ t.cause = .overflow)

/-! ### Saturating arithmetic -/

/-- R61: SADD. -/
def Obligations.SaddResult : Prop :=
  ∀ (a b : Word) (s : State), (encode (.sadd a b)).extractLsb' 64 8 = 0x08#8 ∧
    ∃ t u, exec (.sadd a b) s = .next t ∧ exec (.add a b) s = .next u ∧ s.sameRest t ∧ t.cause = .none ∧
      (-2 ^ 31 < signed a + signed b ∧ signed a + signed b ≤ 2 ^ 31 - 1 →
        signed t.res = signed a + signed b ∧ t.sat = false) ∧
      (signed a + signed b ≥ 2 ^ 31 → t.res = 0x7FFFFFFF ∧ t.sat = true) ∧
      (signed a + signed b ≤ -2 ^ 31 → t.res = 0x80000000 ∧ t.sat = true) ∧
      (t.sat = true ↔ u.cause = .overflow)

/-- R62: SSUB. -/
def Obligations.SsubResult : Prop :=
  ∀ (a b : Word) (s : State), (encode (.ssub a b)).extractLsb' 64 8 = 0x09#8 ∧
    ∃ t u, exec (.ssub a b) s = .next t ∧ exec (.sub a b) s = .next u ∧ s.sameRest t ∧ t.cause = .none ∧
      (-2 ^ 31 < signed a - signed b ∧ signed a - signed b ≤ 2 ^ 31 - 1 →
        signed t.res = signed a - signed b ∧ t.sat = false) ∧
      (signed a - signed b ≥ 2 ^ 31 → t.res = 0x7FFFFFFF ∧ t.sat = true) ∧
      (signed a - signed b ≤ -2 ^ 31 → t.res = 0x80000000 ∧ t.sat = true) ∧
      (t.sat = true ↔ u.cause = .overflow)

/-- R63: SMUL. -/
def Obligations.SmulResult : Prop :=
  ∀ (a b : Word) (p q : Int) (s : State), p = signed a * signed b → q = p.sign * ((|p| + 0x8000) / 65536) →
    (encode (.smul a b)).extractLsb' 64 8 = 0x0A#8 ∧
    ∃ t u, exec (.smul a b) s = .next t ∧ exec (.mul a b) s = .next u ∧ s.sameRest t ∧ t.cause = .none ∧
      (-2 ^ 31 < q ∧ q ≤ 2 ^ 31 - 1 → signed t.res = q ∧ t.sat = false) ∧
      (q ≥ 2 ^ 31 → t.res = 0x7FFFFFFF ∧ t.sat = true) ∧
      (q ≤ -2 ^ 31 → t.res = 0x80000000 ∧ t.sat = true) ∧
      (t.sat = true ↔ u.cause = .overflow)

/-- R64: SDIV. -/
def Obligations.SdivResult : Prop :=
  ∀ (a b : Word) (s : State), (encode (.sdiv a b)).extractLsb' 64 8 = 0x0B#8 ∧
    ∃ t u, exec (.sdiv a b) s = .next t ∧ exec (.div a b) s = .next u ∧ s.sameRest t ∧
      (b = 0 → t.shows 0x80000000 .divzero false) ∧
      (b ≠ 0 → t.cause = .none ∧
        ∃ q r : Int, signed a * 65536 = q * signed b + r ∧ |r| < |signed b| ∧ (r = 0 ∨ r.sign = (signed a).sign) ∧
        (-2 ^ 31 < q ∧ q ≤ 2 ^ 31 - 1 → signed t.res = q ∧ t.sat = false) ∧
        (q ≥ 2 ^ 31 → t.res = 0x7FFFFFFF ∧ t.sat = true) ∧
        (q ≤ -2 ^ 31 → t.res = 0x80000000 ∧ t.sat = true)) ∧
      (t.sat = true ↔ b ≠ 0 ∧ u.cause = .overflow)

/-- The clamp's boundary told from the operands alone, as the corner cases of R61 to R64 derive it. For SADD the operands of a clamp
share a sign, but for the reserved word with zero. -/
def Obligations.ClampFollowsOperandSigns : Prop :=
  ∀ (a b : Word) (s t : State), t.sat = true →
    (exec (.sadd a b) s = .next t →
      (0 ≤ signed a ∧ 0 ≤ signed b ∧ t.res = 0x7FFFFFFF) ∨ (signed a < 0 ∧ signed b < 0 ∧ t.res = 0x80000000) ∨
      (((a = 0x80000000 ∧ b = 0) ∨ (a = 0 ∧ b = 0x80000000)) ∧ t.res = 0x80000000)) ∧
    (exec (.ssub a b) s = .next t → t.res = if 0 ≤ signed a then 0x7FFFFFFF else 0x80000000) ∧
    (exec (.smul a b) s = .next t → t.res = if (signed a < 0 ↔ signed b < 0) then 0x7FFFFFFF else 0x80000000) ∧
    (exec (.sdiv a b) s = .next t → t.res = if (signed a < 0 ↔ signed b < 0) then 0x7FFFFFFF else 0x80000000)

/-- The relations of R65 between the two families, for each of the four pairs. -/
def Obligations.SaturatingAgreesWithPlain : Prop :=
  ∀ pair ∈ [(Instr.add, Instr.sadd), (Instr.sub, Instr.ssub), (Instr.mul, Instr.smul), (Instr.div, Instr.sdiv)],
    ∀ (a b : Word) (s : State), ∃ t u, exec (pair.1 a b) s = .next t ∧ exec (pair.2 a b) s = .next u ∧
      (t.cause = .none → u.shows t.res .none false) ∧
      (t.cause = .overflow ↔ u.sat = true) ∧
      (t.cause = .overflow → t.res = 0x80000000 ∧ (u.res = 0x7FFFFFFF ∨ u.res = 0x80000000)) ∧
      (t.cause = .divzero ↔ u.cause = .divzero) ∧
      (t.cause = .divzero → t.shows 0x80000000 .divzero false ∧ u.shows 0x80000000 .divzero false) ∧
      (u.sat = true → u.res = 0x7FFFFFFF ∨ u.res = 0x80000000)

/-- R66: the division identity, for a divisor of magnitude at least 1.0 and a product that did not saturate, and its limit: the
counterexample of the rule. -/
def Obligations.DivisionIdentity : Prop :=
  (∀ (a b : Word) (s t : State), 65536 ≤ |signed b| → exec (.smul a b) s = .next t → t.sat = false →
    ∃ u, exec (.sdiv t.res b) t = .next u ∧ u.cause = .none ∧ u.sat = false ∧ |signed u.res - signed a| ≤ 1) ∧
  (∀ s : State, ∃ t u, exec (.smul 0x00018000 0x00000001) s = .next t ∧ exec (.sdiv t.res 0x00000001) t = .next u ∧
    t.res = 0x00000002 ∧ u.res = 0x00020000)

/-! ### Square root -/

/-- R71: the loop invariant of the recurrence, and what its 24 iterations deliver. -/
def Obligations.SquareRootRecurrence : Prop :=
  (∀ (N i : Nat) (p : RootRem), p.root ^ 2 + p.rem = N >>> (2 * (i + 1)) → p.rem ≤ 2 * p.root →
    (isqrtStep N i p).root ^ 2 + (isqrtStep N i p).rem = N >>> (2 * i) ∧
    (isqrtStep N i p).rem ≤ 2 * (isqrtStep N i p).root) ∧
  (∀ N : Nat, N < 2 ^ 48 →
    (isqrt48 N).root = Nat.sqrt N ∧ (isqrt48 N).rem = N - (isqrt48 N).root * (isqrt48 N).root ∧
    (isqrt48 N).rem ≤ 2 * (isqrt48 N).root ∧ (isqrt48 N).root < 2 ^ 24)

/-- R70: SQRT is the square root rounded to the nearest raw unit, in the domain error's absence, whatever `b` holds. -/
def Obligations.SqrtResult : Prop :=
  ∀ (a b : Word) (s : State), (encode (.sqrt a b)).extractLsb' 64 8 = 0x10#8 ∧
    ∃ t, exec (.sqrt a b) s = .next t ∧ s.sameRest t ∧ t.sat = false ∧
      (signed a < 0 → t.res = 0x80000000 ∧ t.cause = .domain) ∧
      (0 ≤ signed a → t.cause = .none ∧ 0 ≤ signed t.res ∧ signed t.res ≤ 0x00B504F3 ∧
        4 * (signed a * 65536) < (2 * signed t.res + 1) ^ 2 ∧
        (signed t.res = 0 ∨ (2 * signed t.res - 1) ^ 2 < 4 * (signed a * 65536)))

/-- R72: the properties of SQRT: monotonic, exact squares come back exactly, and the square of the root is near the operand and
never overflows. -/
def Obligations.SqrtProperties : Prop :=
  (∀ (a a' b b' : Word) (s : State), 0 ≤ signed a → signed a ≤ signed a' →
    ∃ t t', exec (.sqrt a b) s = .next t ∧ exec (.sqrt a' b') s = .next t' ∧ signed t.res ≤ signed t'.res) ∧
  (∀ (a b : Word) (k : Int) (s : State), 0 ≤ k → signed a * 65536 = k ^ 2 →
    ∃ t, exec (.sqrt a b) s = .next t ∧ t.res = wrap32 k) ∧
  (∀ (a b : Word) (s : State), 0 ≤ signed a →
    ∃ t u, exec (.sqrt a b) s = .next t ∧ exec (.mul t.res t.res) t = .next u ∧ u.cause = .none ∧
      65536 * |signed u.res - signed a| ≤ signed t.res + 1 + 65536)

/-! ### Exponential and logarithm -/

/-- R75: each wired constant is its real value times 65536 rounded to the nearest integer, and X_SAT is the least integer not below
`ln(32768) * 65536`. -/
def Obligations.ConstantsAreRoundedReals : Prop :=
  |(signed eWord : ℝ) - Real.exp 1 * 65536| < 1 / 2 ∧ eWord = 0x0002B7E1 ∧
  |(signed invEWord : ℝ) - (Real.exp 1)⁻¹ * 65536| < 1 / 2 ∧ invEWord = 0x00005E2D ∧
  |(signed ln2Word : ℝ) - Real.log 2 * 65536| < 1 / 2 ∧ ln2Word = 0x0000B172 ∧
  (signed xSatWord : ℝ) - 1 < Real.log 32768 * 65536 ∧ Real.log 32768 * 65536 ≤ (signed xSatWord : ℝ) ∧
  xSatWord = 0x000A65B0 ∧ kNeg = 13

/-- R76: the table of EXP: 21 entries, each `ln(1 + 2^-k) * 2^30` rounded to the nearest integer. -/
def Obligations.ExpTableIsRoundedLogs : Prop :=
  expTable.length = 21 ∧
  ∀ k : Fin 21, |((expTable.getD k 0 : Nat) : ℝ) - Real.log (1 + 1 / 2 ^ (k : Nat)) * 2 ^ 30| ≤ 1 / 2

/-- R77: the range of the exponential of a fraction, the width of its accumulator, and what is left of the exponent. -/
def Obligations.ExpFractionRange : Prop :=
  expFrac 0 = 65536 ∧
  ∀ r : Nat, r ≤ 65535 → 65536 ≤ expFrac r ∧ expFrac r ≤ 178143 ∧
    (expLoop 0 expTable { t := r <<< 14, y := 0x40000000 }).y < 2 ^ 32 ∧
    (expLoop 0 expTable { t := r <<< 14, y := 0x40000000 }).t < 0x400

/-- EXP (R78), with what the rule derives by evaluation. The chain of saturating multiplications is stated as plain integer arithmetic, uncapped and without saturation: that
neither the cap KNEG nor a clamp ever shows below X_SAT is part of the rule. -/
def Obligations.ExpResult : Prop :=
  ∀ (a b : Word) (s : State), (encode (.exp a b)).extractLsb' 64 8 = 0x11#8 ∧
    ∃ t, exec (.exp a b) s = .next t ∧ s.sameRest t ∧ t.cause = .none ∧
      (t.sat = true ↔ 681392 ≤ signed a) ∧
      (681392 ≤ signed a → t.res = 0x7FFFFFFF) ∧
      (0 ≤ signed a ∧ signed a < 681392 → signed t.res =
        (((fun f : Nat => (f * 178145 + 0x8000) / 65536)^[(signed a / 65536).toNat]
          (expFrac (signed a % 65536).toNat) : Nat) : Int)) ∧
      (signed a < 0 → signed t.res =
        (((fun f : Nat => (f * 24109 + 0x8000) / 65536)^[(-(signed a / 65536)).toNat]
          (expFrac (signed a % 65536).toNat) : Nat) : Int))

/-- Underflow of EXP, as R78 derives it by evaluation. -/
def Obligations.ExpUnderflow : Prop :=
  (∀ (a b : Word) (s : State), signed a ≤ -758554 →
    ∃ t, exec (.exp a b) s = .next t ∧ t.shows 0x00000000 .none false) ∧
  (∀ (b : Word) (s : State), ∃ t, exec (.exp 0xFFF46CE7 b) s = .next t ∧ t.shows 0x00000001 .none false)

/-- R79: the bit scan, the mantissa invariant of every iteration, the integer part, and the range of the logarithm engine. -/
def Obligations.LogarithmEngine : Prop :=
  (∀ p : LogAcc, 2 ^ 31 ≤ p.m → p.m < 2 ^ 32 → 2 ^ 31 ≤ (logStep p).m ∧ (logStep p).m < 2 ^ 32) ∧
  ∀ x : Nat, 1 ≤ x → x ≤ 2 ^ 31 - 1 →
    2 ^ bitScan x 30 ≤ x ∧ x < 2 ^ (bitScan x 30 + 1) ∧
    log2Core x / 65536 = (bitScan x 30 : Int) - 16 ∧
    -1048576 ≤ log2Core x ∧ log2Core x ≤ 983039

/-- The logarithm engine is accurate: never above the true logarithm, and less than one raw unit and a ten-thousandth factor below
it. R83 gives the figures as found by evaluation; the bound here is derived from R79's recurrence. In integers: with
`L = log2Core x + 1048576`, `2^L ≤ x^65536 < 1.0001 * 2^(L+1)`. -/
def Obligations.LogarithmAccuracy : Prop :=
  ∀ x : Nat, 1 ≤ x → x ≤ 2 ^ 31 - 1 →
    2 ^ (log2Core x + 1048576).toNat ≤ x ^ 65536 ∧
    10000 * x ^ 65536 < 10001 * 2 ^ ((log2Core x + 1048576).toNat + 1)

/-- R80: LOG2: the domain, the engine's value and its extremes, exact integers for the powers of two, and an integer difference for
operands of the same mantissa. -/
def Obligations.Log2Result : Prop :=
  ∀ (a b : Word) (s : State), (encode (.log2 a b)).extractLsb' 64 8 = 0x13#8 ∧
    ∃ t, exec (.log2 a b) s = .next t ∧ s.sameRest t ∧ t.sat = false ∧
      (signed a ≤ 0 → t.res = 0x80000000 ∧ t.cause = .domain) ∧
      (0 < signed a → t.cause = .none ∧ signed t.res = log2Core (signed a).toNat ∧
        signed (0xFFF00000 : Word) ≤ signed t.res ∧ signed t.res ≤ 0x000EFFFF ∧
        (∀ j : Nat, signed a = 2 ^ j → signed t.res = ((j : Int) - 16) * 65536) ∧
        (∀ (a' : Word) (u : State), signed a' = 2 * signed a → exec (.log2 a' b) s = .next u →
          signed u.res = signed t.res + 65536))

/-- R81: LOG is the logarithm to base 2 times LN2, rounded to the nearest integer, a tie away from zero; it never clamps, and its
extremes are those of the rule. -/
def Obligations.LogResult : Prop :=
  ∀ (a b : Word) (s : State), (encode (.log a b)).extractLsb' 64 8 = 0x12#8 ∧
    ∃ t, exec (.log a b) s = .next t ∧ s.sameRest t ∧ t.sat = false ∧
      (signed a ≤ 0 → t.res = 0x80000000 ∧ t.cause = .domain) ∧
      (0 < signed a → t.cause = .none ∧
        signed t.res = (log2Core (signed a).toNat).sign * ((|log2Core (signed a).toNat| * 45426 + 0x8000) / 65536) ∧
        signed (0xFFF4E8E0 : Word) ≤ signed t.res ∧ signed t.res ≤ signed (0x000A65AD : Word))

/-- R82: SLOG2 clamps a non-positive operand to the minimum without error, equals LOG2 on every positive operand, and never clamps at
the top. -/
def Obligations.Slog2Result : Prop :=
  ∀ (a b : Word) (s : State), (encode (.slog2 a b)).extractLsb' 64 8 = 0x1B#8 ∧
    ∃ t u, exec (.slog2 a b) s = .next t ∧ exec (.log2 a b) s = .next u ∧ s.sameRest t ∧ t.cause = .none ∧
      (t.sat = true ↔ signed a ≤ 0) ∧
      (signed a ≤ 0 → t.res = 0x80000000 ∧ u.res = 0x80000000 ∧ u.cause = .domain) ∧
      (0 < signed a → t = u ∧ signed t.res = log2Core (signed a).toNat ∧ signed t.res ≤ 0x000EFFFF)

/-- R84, first sentence of its derivation: the exponential of a logarithm never errs and never saturates. -/
def Obligations.ExpOfLogNeverSaturates : Prop :=
  ∀ (a b b' : Word) (s : State), 0 < signed a →
    ∃ t u, exec (.log a b) s = .next t ∧ exec (.exp t.res b') t = .next u ∧
      t.cause = .none ∧ t.sat = false ∧ u.cause = .none ∧ u.sat = false

/-! ### Errors -/

/-- R91: every cause, the commands that can report it and the exact condition, and exactly what sets SAT. -/
def Obligations.CausesExactlyWhen : Prop :=
  ∀ (w : CmdWord) (s t : State), completeWord w s = .next t →
    (t.cause = .overflow ↔ ∃ a b : Word,
      (decode w = .ok (.add a b) ∧ ¬ inrange (signed a + signed b)) ∨
      (decode w = .ok (.sub a b) ∧ ¬ inrange (signed a - signed b)) ∨
      (decode w = .ok (.mul a b) ∧ ¬ inrange (rnd16 (signed a * signed b))) ∨
      (decode w = .ok (.div a b) ∧ signed b ≠ 0 ∧ ¬ inrange (tdiv (signed a * 65536) (signed b)))) ∧
    (t.cause = .divzero ↔ ∃ a : Word,
      decode w = .ok (.div a 0) ∨ decode w = .ok (.sdiv a 0) ∨ decode w = .ok (.mod a 0)) ∧
    (t.cause = .domain ↔ ∃ a b : Word,
      (decode w = .ok (.sqrt a b) ∧ signed a < 0) ∨
      (decode w = .ok (.log2 a b) ∧ signed a ≤ 0) ∨ (decode w = .ok (.log a b) ∧ signed a ≤ 0)) ∧
    (t.cause = .illegalOp ↔ ∃ op, decode w = .error (.reservedOpcode op)) ∧
    (t.sat = true ↔ ∃ a b : Word,
      (decode w = .ok (.sadd a b) ∧ ¬ inrange (signed a + signed b)) ∨
      (decode w = .ok (.ssub a b) ∧ ¬ inrange (signed a - signed b)) ∨
      (decode w = .ok (.smul a b) ∧ ¬ inrange (rnd16 (signed a * signed b))) ∨
      (decode w = .ok (.sdiv a b) ∧ signed b ≠ 0 ∧ ¬ inrange (tdiv (signed a * 65536) (signed b))) ∨
      (decode w = .ok (.slog2 a b) ∧ signed a ≤ 0) ∨
      (decode w = .ok (.exp a b) ∧ 681392 ≤ signed a)) ∧
    (t.cause = .overflow → t.status = 0x05) ∧ (t.cause = .divzero → t.status = 0x09) ∧
    (t.cause = .domain → t.status = 0x0D) ∧ (t.cause = .illegalOp → t.status = 0x11)

/-! ### The frame and purity of commands -/

/-- R28: what every command, every instruction among them, leaves unchanged: the command in flight, the strobe and the inputs. RES,
CAUSE and SAT are its destinations (R14), and a later command's result is the same without it. -/
def Obligations.InstructionFrame : Prop :=
  (∀ (i : Instr) (s : State), ∃ t, exec i s = .next t ∧ s.sameRest t) ∧
  (∀ (w w' : CmdWord) (s : State), ∃ t u v, completeWord w s = .next t ∧ s.sameRest t ∧
    completeWord w' t = .next u ∧ completeWord w' s = .next v ∧ u.result = v.result)

/-- R4: a command is a pure function of its opcode and its two operand words: it always completes, its triple does not depend on the
state, and the triple is the only change. -/
def Obligations.CommandsArePure : Prop :=
  ∀ (w : CmdWord) (s s' : State), ∃ t t', completeWord w s = .next t ∧ completeWord w s' = .next t' ∧
    t.result = t'.result ∧ s.sameRest t ∧ s'.sameRest t'

/-! ### The machine -/

/-- A step runs the decoded instruction. The accepted command word, when its latency ends and there is no reset, is decoded and
executed, with the bookkeeping of a completion around it: the command leaves the unit, the strobe is raised, the cycle's
inputs are gone (the registered strobe is the model's choice, log 4). A word placed by withFetchWord is run by the very next
step. -/
def Obligations.StepRunsDecodedInstruction : Prop :=
  (∀ (s : State) (w : CmdWord) (i : Instr), s.inFlight = some w → s.cycle.rst = false → s.cycle.finish = true →
    decode w = .ok i →
    step s = exec i { s with inFlight := none, rspValid := true, inputs := s.inputs.tail }) ∧
  (∀ (s : State) (n : Nat) (i : Instr), decodeTableWord 72 n = some i →
    step (s.withFetchWord 72 n) = exec i { s with inFlight := none, rspValid := true })

/-- R22: completion of a command is the only event that changes RES, CAUSE and SAT apart from reset. For every latency: while the
command is in flight the response port shows the previous command's result, and in the cycle in which the latency ends the
three elements are written together with `execute` of the accepted word. -/
def Obligations.TransactionRule : Prop :=
  (∀ s t : State, step s = .next t → t.result ≠ s.result →
    s.cycle.rst = true ∨ ((∃ w, s.inFlight = some w) ∧ s.cycle.finishing = true)) ∧
  (∀ (s : State) (w : CmdWord) (work rest : List Cycle) (c : Cycle), s.inFlight = some w →
    s.inputs = work ++ c :: rest → (∀ d ∈ work, d.working = true) → c.finishing = true →
    (∀ k ≤ work.length, (State.after k s).rsp = s.rsp ∧ (State.after k s).inFlight = some w) ∧
    (State.after (work.length + 1) s).result = executeWord w ∧ (State.after (work.length + 1) s).inFlight = none ∧
    (State.after (work.length + 1) s).inputs = rest)

/-- R21: the handshake. An offered command is accepted and copied when the unit is ready; while a command is in flight what the host
drives on `cmd` and `cmd_valid` has no effect at all; `cmd_ready` is low from accept to completion. That the unit is ready in every
cycle in which no command is in flight, also in the cycle in which the strobe of a completion shows, is the model's choice and not
R21's words (log 4). -/
def Obligations.CommandHandshake : Prop :=
  (∀ s : State, s.inFlight = none → s.cycle.rst = false → s.cycle.cmdValid = true →
    ∃ t, step s = .next t ∧ t.inFlight = some s.cycle.cmd ∧ t.result = s.result ∧ t.inputs = s.inputs.tail) ∧
  (∀ (s : State) (w : CmdWord) (c d : Cycle) (rest : List Cycle), s.inFlight = some w →
    c.rst = d.rst → c.finish = d.finish →
    step { s with inputs := c :: rest } = step { s with inputs := d :: rest }) ∧
  (∀ (s : State) (w : CmdWord), s.inFlight = some w → s.cmdReady = false ∧ s.accepts = false) ∧
  (∀ s : State, s.inFlight = none → s.cycle.rst = false → s.cycle.cmdValid = false →
    ∃ t, step s = .next t ∧ t.inFlight = none ∧ t.result = s.result)

/-- R21, R90: `rsp_valid` is high for exactly one cycle per completed command, an error like any other. That the strobe shows in the
state after the completing edge is the model's choice (log 4), and that a reset at the completing edge wins over the completion is
its deduction from R100 (log 5). -/
def Obligations.StrobeMarksCompletion : Prop :=
  ∀ s t : State, step s = .next t →
    (t.rspValid = true ↔ (∃ w, s.inFlight = some w) ∧ s.cycle.finishing = true)

/-- Reset, from R100. All its effects at once; a command in flight is abandoned, so that a reset during a command is the same as a
reset with the command never issued; nothing is accepted in reset, and the unit is ready in the first cycle after it. That reset
wins also at the very edge at which a latency ends, and that it masks the strobe of an earlier completion in its own cycle, is the
model's deduction (log 5). -/
def Obligations.ResetCycle : Prop :=
  ∀ s : State, s.cycle.rst = true →
    s.cmdReady = false ∧ s.rspValidPort = false ∧ s.accepts = false ∧
    ∃ t, step s = .next t ∧ t.shows 0x00000000 .none false ∧ t.status = 0x00 ∧ t.rsp = 0x0000000000 ∧
      t.inFlight = none ∧ t.rspValidPort = false ∧
      (t.cycle.rst = false → t.cmdReady = true) ∧
      (∀ s' : State, s'.inputs = s.inputs → step s' = .next t)

/-- R90: the unit never stops: from every state, any number of cycles runs. -/
def Obligations.UnitNeverStops : Prop :=
  ∀ (n : Nat) (s : State), ∃ t, Host.Core.run Sys2Proof.core n s = .next t ∧ t = State.after n s

/-- R25: one command at a time, in accept order: whatever the host drives and however long each command takes, as long as there is no
reset, the responses taken in any number of cycles, with those still owed at the end, are those owed at the start and then
`execute` of the accepted commands, one for each, in accept order. The strobe by which responses are taken is registered, the model's choice (log 4, log 5). -/
def Obligations.ResponsesInAcceptOrder : Prop :=
  (∀ s : State, s.accepts = true → s.inFlight = none) ∧
  (∀ (n : Nat) (s : State), (∀ c ∈ s.inputs, c.rst = false) →
    owed s ++ (accepted n s).map (fun w => (executeWord w).response) = responses n s ++ owed (State.after n s))

/-! ### Listings -/

/-- R37: a two-operand line assembles to the command word of its two operand words, `RES` stands for the previous result word, a
one-operand line takes one operand and encodes `b` as zero, and the rule's example. -/
def Obligations.ListingAssembles : Prop :=
  (∀ (m : Mnemonic) (prev wa wb : Word) (a b : Operand), m.usesB = true → a.word prev = some wa → b.word prev = some wb →
    Line.assemble prev (.instr m a (some b)) = some (encode (m.instr wa wb)) ∧
    Line.assemble prev (.instr m a none) = none) ∧
  (∀ (m : Mnemonic) (prev wa : Word) (a b : Operand), m.usesB = false → a.word prev = some wa →
    Line.assemble prev (.instr m a none) = some (encode (m.instr wa 0)) ∧
    Line.assemble prev (.instr m a (some b)) = none) ∧
  (∀ prev : Word, Operand.res.word prev = some prev ∧
    Line.assemble prev (.instr .smul (.named .max) (some (.named .two))) = some 0x0A7FFFFFFF00020000)
end

