-- ==== Sys2Proof/Laws/Decode.lean ====
section
/-! SUPPORT. The fields of a command word, and what the decoder answers. -/

namespace Sys2Proof

/-- The `op` field of a concatenation `{op, a, b}` (R30, R36). -/
@[simp] theorem Command.toWord_op (c : Command) : c.toWord.extractLsb' 64 8 = c.op := by
  apply BitVec.eq_of_getLsbD_eq
  intro i hi
  have h₁ : ¬ 64 + i < 32 := by omega
  have h₂ : ¬ 64 + i - 32 < 32 := by omega
  simp only [Command.toWord, BitVec.getLsbD_extractLsb', BitVec.getLsbD_append, h₁, h₂, hi, if_false,
    decide_true, Bool.true_and]
  congr 1; omega

/-- The `a` field. -/
@[simp] theorem Command.toWord_a (c : Command) : c.toWord.extractLsb' 32 32 = c.a := by
  apply BitVec.eq_of_getLsbD_eq
  intro i hi
  have h₁ : ¬ 32 + i < 32 := by omega
  have h₂ : 32 + i - 32 < 32 := by omega
  simp only [Command.toWord, BitVec.getLsbD_extractLsb', BitVec.getLsbD_append, h₁, h₂, hi, if_false, if_true,
    decide_true, Bool.true_and]
  congr 1; omega

/-- The `b` field. -/
@[simp] theorem Command.toWord_b (c : Command) : c.toWord.extractLsb' 0 32 = c.b := by
  apply BitVec.eq_of_getLsbD_eq
  intro i hi
  have h₁ : 0 + i < 32 := by omega
  simp only [Command.toWord, BitVec.getLsbD_extractLsb', BitVec.getLsbD_append, h₁, hi, if_true,
    decide_true, Bool.true_and]
  congr 1; omega

/-- Everything the decoder can answer (R32, R34): an instruction with the command's opcode and operand words, or a refusal that
names a reserved opcode byte. -/
theorem decodeCommand_cases (c : Command) :
    (∃ i, decodeCommand c = .ok i ∧ i.command = c ∧ c.wellFormed = true) ∨
    (decodeCommand c = .error (.reservedOpcode c.op) ∧ c.wellFormed = false) := by
  obtain ⟨op, a, b⟩ := c
  unfold decodeCommand
  split
  case h_15 =>
    refine .inr ⟨rfl, ?_⟩
    simp_all [Command.wellFormed, assignedOpcodes]
  all_goals (rename_i h; subst h; exact .inl ⟨_, rfl, rfl, rfl⟩)

end Sys2Proof
end

