-- ==== Sys2Proof/Laws/State.lean ====
section
/-! SUPPORT. One lemma per field per update of State, so that no proof unfolds a record update. -/

namespace Sys2Proof.Machine

@[simp] theorem State.latch_res (s : State) (r : Result) : (s.latch r).res = r.res := rfl
@[simp] theorem State.latch_cause (s : State) (r : Result) : (s.latch r).cause = r.cause := rfl
@[simp] theorem State.latch_sat (s : State) (r : Result) : (s.latch r).sat = r.sat := rfl
@[simp] theorem State.latch_inFlight (s : State) (r : Result) : (s.latch r).inFlight = s.inFlight := rfl
@[simp] theorem State.latch_rspValid (s : State) (r : Result) : (s.latch r).rspValid = s.rspValid := rfl
@[simp] theorem State.latch_inputs (s : State) (r : Result) : (s.latch r).inputs = s.inputs := rfl
@[simp] theorem State.latch_result (s : State) (r : Result) : (s.latch r).result = r := rfl
@[simp] theorem State.latch_rsp (s : State) (r : Result) : (s.latch r).rsp = r.response := rfl

@[simp] theorem State.nextInputs_result (s : State) : s.nextInputs.result = s.result := rfl
@[simp] theorem State.nextInputs_inFlight (s : State) : s.nextInputs.inFlight = s.inFlight := rfl
@[simp] theorem State.nextInputs_rspValid (s : State) : s.nextInputs.rspValid = s.rspValid := rfl
@[simp] theorem State.nextInputs_inputs (s : State) : s.nextInputs.inputs = s.inputs.tail := rfl

@[simp] theorem State.resetUnit_result (s : State) :
    s.resetUnit.result = { res := 0, cause := .none, sat := false } := rfl
@[simp] theorem State.resetUnit_inFlight (s : State) : s.resetUnit.inFlight = none := rfl
@[simp] theorem State.resetUnit_rspValid (s : State) : s.resetUnit.rspValid = false := rfl
@[simp] theorem State.resetUnit_inputs (s : State) : s.resetUnit.inputs = s.inputs := rfl

@[simp] theorem State.accept_result (s : State) (w : CmdWord) : (s.accept w).result = s.result := rfl
@[simp] theorem State.accept_inFlight (s : State) (w : CmdWord) : (s.accept w).inFlight = some w := rfl
@[simp] theorem State.accept_rspValid (s : State) (w : CmdWord) : (s.accept w).rspValid = false := rfl
@[simp] theorem State.accept_inputs (s : State) (w : CmdWord) : (s.accept w).inputs = s.inputs := rfl

@[simp] theorem State.hold_result (s : State) : s.hold.result = s.result := rfl
@[simp] theorem State.hold_inFlight (s : State) : s.hold.inFlight = s.inFlight := rfl
@[simp] theorem State.hold_rspValid (s : State) : s.hold.rspValid = false := rfl
@[simp] theorem State.hold_inputs (s : State) : s.hold.inputs = s.inputs := rfl

@[simp] theorem State.endFlight_result (s : State) : s.endFlight.result = s.result := rfl
@[simp] theorem State.endFlight_inFlight (s : State) : s.endFlight.inFlight = none := rfl
@[simp] theorem State.endFlight_rspValid (s : State) : s.endFlight.rspValid = true := rfl
@[simp] theorem State.endFlight_inputs (s : State) : s.endFlight.inputs = s.inputs := rfl

@[simp] theorem State.place_result (s : State) (w : CmdWord) : (s.place w).result = s.result := rfl
@[simp] theorem State.place_inFlight (s : State) (w : CmdWord) : (s.place w).inFlight = some w := rfl
@[simp] theorem State.place_rspValid (s : State) (w : CmdWord) : (s.place w).rspValid = s.rspValid := rfl
@[simp] theorem State.place_inputs (s : State) (w : CmdWord) :
    (s.place w).inputs = completionCycle :: s.inputs := rfl
@[simp] theorem State.place_cycle (s : State) (w : CmdWord) : (s.place w).cycle = completionCycle := rfl

/-- The current cycle of a state whose inputs are written out. -/
theorem State.cycle_cons {s : State} {c : Cycle} {rest : List Cycle} (h : s.inputs = c :: rest) :
    s.cycle = c := by simp [State.cycle, h]

/-- Two states are equal when their result latches and the rest agree. -/
theorem State.eq_of_parts {s t : State} (h₁ : s.result = t.result) (h₂ : s.inFlight = t.inFlight)
    (h₃ : s.rspValid = t.rspValid) (h₄ : s.inputs = t.inputs) : s = t := by
  cases s; cases t; simp_all [State.result]

end Sys2Proof.Machine
end

