-- ==== Sys2Proof/Laws/Word.lean ====
section
/-! SUPPORT. Laws of the signed reading and of narrowing (N3, N5, N6). -/

namespace Sys2Proof.Laws

theorem signed_lower (w : Word) : -2 ^ 31 ≤ signed w := by
  have := BitVec.le_toInt w; simpa using this

theorem signed_upper (w : Word) : signed w ≤ 2 ^ 31 - 1 := by
  have : w.toInt < 2 ^ 31 := by simpa using BitVec.toInt_lt (x := w)
  exact Int.le_sub_one_of_lt this

/-- N3, word for word: the unsigned reading, less `2^32` when bit 31 is set. -/
theorem signed_eq_unsigned (w : Word) :
    signed w = if w[31] then (w.toNat : Int) - 2 ^ 32 else (w.toNat : Int) := by
  rw [signed, BitVec.toInt_eq_msb_cond, BitVec.msb_eq_getLsbD_last]
  simp

/-- N5: narrowing loses nothing of an integer inside the format. -/
theorem signed_wrap32 {n : Int} (h₁ : -2 ^ 31 ≤ n) (h₂ : n ≤ 2 ^ 31 - 1) : signed (wrap32 n) = n := by
  rw [signed, wrap32, BitVec.toInt_ofInt]
  exact Int.bmod_eq_of_le (by norm_num; omega) (by norm_num; omega)

theorem wrap32_signed (w : Word) : wrap32 (signed w) = w := BitVec.ofInt_toInt

@[simp] theorem signed_eq_zero_iff (w : Word) : signed w = 0 ↔ w = 0 := by
  rw [signed, ← BitVec.toInt_zero (w := 32), BitVec.toInt_inj]
  rfl

theorem shl_sixteen (n : Int) : shl n 16 = n * 65536 := by simp [shl]

theorem shr_sixteen (n : Int) : shr n 16 = n / 65536 := by simp [shr]

end Sys2Proof.Laws
end

