-- ==== Sys2Proof/Laws/Ops.lean ====
section
/-! SUPPORT. What the shared operations can do: the delivery policies case by case, and the outcome of a delivery. -/

namespace Sys2Proof.Machine

@[simp] theorem errorResult_res (c : Cause) : (errorResult c).res = 0x80000000 := rfl
@[simp] theorem errorResult_cause (c : Cause) : (errorResult c).cause = c := rfl
@[simp] theorem errorResult_sat (c : Cause) : (errorResult c).sat = false := rfl
@[simp] theorem plainResult_res (w : Word) : (plainResult w).res = w := rfl
@[simp] theorem plainResult_cause (w : Word) : (plainResult w).cause = .none := rfl
@[simp] theorem plainResult_sat (w : Word) : (plainResult w).sat = false := rfl
@[simp] theorem clampResult_res (w : Word) : (clampResult w).res = w := rfl
@[simp] theorem clampResult_cause (w : Word) : (clampResult w).cause = .none := rfl
@[simp] theorem clampResult_sat (w : Word) : (clampResult w).sat = true := rfl

/-- A delivery is always a next state, the one with the result latched. -/
theorem deliver_eq_next {r : Result} {s t : State} : deliver r s = .next t ↔ t = s.latch r := by
  simp [deliver, eq_comm]

/-- R12: an in-range integer survives narrowing. -/
theorem signed_wrap32_inrange {n : Int} (h : inrange n) : signed (wrap32 n) = n :=
  Laws.signed_wrap32 (by have := h.1; omega) h.2

/-- R12: an in-range integer is not the reserved word. -/
theorem wrap32_ne_reserved {n : Int} (h : inrange n) : wrap32 n ≠ 0x80000000 := by
  intro e
  have := signed_wrap32_inrange h
  rw [e] at this
  have : signed (0x80000000 : Word) = -2147483648 := by decide
  have := h.1
  omega

theorem deliverSentinel_inrange {n : Int} (h : inrange n) : deliverSentinel n = plainResult (wrap32 n) :=
  if_pos h

theorem deliverSentinel_overflow {n : Int} (h : ¬ inrange n) : deliverSentinel n = errorResult .overflow :=
  if_neg h

theorem deliverClamp_inrange {n : Int} (h : inrange n) : deliverClamp n = plainResult (wrap32 n) :=
  if_pos h

theorem deliverClamp_positive {n : Int} (h : ¬ inrange n) (hp : n > 0) : deliverClamp n = clampResult maxWord := by
  simp only [deliverClamp, if_neg h, if_pos hp]

theorem deliverClamp_negative {n : Int} (h : ¬ inrange n) (hp : ¬ n > 0) : deliverClamp n = clampResult minWord := by
  simp only [deliverClamp, if_neg h, if_neg hp]

/-- Everything the sentinel policy can do (R40). -/
theorem deliverSentinel_cases (n : Int) :
    (inrange n ∧ deliverSentinel n = plainResult (wrap32 n)) ∨
    (¬ inrange n ∧ deliverSentinel n = errorResult .overflow) := by
  by_cases h : inrange n
  · exact .inl ⟨h, deliverSentinel_inrange h⟩
  · exact .inr ⟨h, deliverSentinel_overflow h⟩

/-- Everything the clamp policy can do (R60). -/
theorem deliverClamp_cases (n : Int) :
    (inrange n ∧ deliverClamp n = plainResult (wrap32 n)) ∨
    (2 ^ 31 ≤ n ∧ deliverClamp n = clampResult maxWord) ∨
    (n ≤ -2 ^ 31 ∧ deliverClamp n = clampResult minWord) := by
  by_cases h : inrange n
  · exact .inl ⟨h, deliverClamp_inrange h⟩
  · by_cases hp : n > 0
    · refine .inr (.inl ⟨?_, deliverClamp_positive h hp⟩)
      unfold inrange at h; omega
    · refine .inr (.inr ⟨?_, deliverClamp_negative h hp⟩)
      unfold inrange at h; omega

/-- R45: the spec's truncating division is the library's. -/
theorem tdiv_eq_tdiv (n d : Int) (hd : d ≠ 0) : tdiv n d = Int.tdiv n d := by
  have key : n.sign * d.sign * ((n.natAbs / d.natAbs : Nat) : Int) = Int.tdiv n d := by
    obtain ⟨m, rfl | rfl⟩ := n.eq_nat_or_neg <;> obtain ⟨k, rfl | rfl⟩ := d.eq_nat_or_neg <;>
      rcases Nat.eq_zero_or_pos m with rfl | hm <;> rcases Nat.eq_zero_or_pos k with rfl | hk <;>
      simp_all [Int.neg_tdiv, Int.tdiv_neg, Int.sign_eq_one_of_pos]
  rw [← key]
  unfold tdiv
  rcases lt_trichotomy n 0 with hn | rfl | hn
  · have h0 : ¬ n ≥ 0 := not_le.mpr hn
    rcases lt_or_gt_of_ne hd with h | h
    · have h1 : ¬ d > 0 := not_lt.mpr h.le
      simp only [h0, h1, iff_self, if_true, Int.sign_eq_neg_one_of_neg hn, Int.sign_eq_neg_one_of_neg h]
      ring
    · simp only [h0, h, iff_true, if_false, Int.sign_eq_neg_one_of_neg hn, Int.sign_eq_one_of_pos h]
      ring
  · simp
  · have h0 : n ≥ 0 := hn.le
    rcases lt_or_gt_of_ne hd with h | h
    · have h1 : ¬ d > 0 := not_lt.mpr h.le
      simp only [h0, h1, iff_false, not_true, if_false, Int.sign_eq_one_of_pos hn, Int.sign_eq_neg_one_of_neg h]
      ring
    · simp only [h0, h, iff_self, if_true, Int.sign_eq_one_of_pos hn, Int.sign_eq_one_of_pos h]
      ring

end Sys2Proof.Machine
end

