-- ==== Sys2Proof/Laws/Exec.lean ====
section
/-! SUPPORT. What exec can do: it latches a result that depends on the instruction alone. -/

namespace Sys2Proof.Machine

/-- R22, R36: exec latches the triple of `execute` for the instruction's opcode and operand words. -/
theorem exec_eq_deliver (i : Instr) (s : State) :
    exec i s = deliver (execute i.opcode i.operandA i.operandB) s := by
  cases i <;> rfl

/-- The next state of exec, if it is asked for. -/
theorem exec_eq_next {i : Instr} {s t : State} :
    exec i s = .next t ↔ t = s.latch (execute i.opcode i.operandA i.operandB) := by
  rw [exec_eq_deliver, deliver_eq_next]

end Sys2Proof.Machine
end

