-- ==== Sys2Proof/Laws/PerInstr.lean ====
section
/-! SUPPORT. Statements about every instruction as syntax, one lemma per constructor. -/

namespace Sys2Proof.Laws.EncodedFields

/-- The command word of an instruction carries its opcode byte and its two operand words in the fields of R30. -/
def Statement (i : Instr) : Prop :=
  (encode i).extractLsb' 64 8 = i.opcode ∧ (encode i).extractLsb' 32 32 = i.operandA ∧
    (encode i).extractLsb' 0 32 = i.operandB

theorem of_command (i : Instr) : Statement i :=
  ⟨i.command.toWord_op, i.command.toWord_a, i.command.toWord_b⟩

theorem add (a b : Word) : Statement (.add a b) := of_command _
theorem sub (a b : Word) : Statement (.sub a b) := of_command _
theorem mul (a b : Word) : Statement (.mul a b) := of_command _
theorem div (a b : Word) : Statement (.div a b) := of_command _
theorem mod (a b : Word) : Statement (.mod a b) := of_command _
theorem sadd (a b : Word) : Statement (.sadd a b) := of_command _
theorem ssub (a b : Word) : Statement (.ssub a b) := of_command _
theorem smul (a b : Word) : Statement (.smul a b) := of_command _
theorem sdiv (a b : Word) : Statement (.sdiv a b) := of_command _
theorem sqrt (a b : Word) : Statement (.sqrt a b) := of_command _
theorem exp (a b : Word) : Statement (.exp a b) := of_command _
theorem log (a b : Word) : Statement (.log a b) := of_command _
theorem log2 (a b : Word) : Statement (.log2 a b) := of_command _
theorem slog2 (a b : Word) : Statement (.slog2 a b) := of_command _

end Sys2Proof.Laws.EncodedFields
end

