-- ==== Sys2Proof/Laws/Step.lean ====
section
/-! SUPPORT. What a step can do: one lemma that says it all, and the inputs of a cycle written out. -/

namespace Sys2Proof.Machine

/-- Everything a step can do (R21, R22, R100): reset; completion of the command in flight; work on it; accept of an offered
command; or an idle cycle. -/
theorem step_cases {s : State} {o : Host.Outcome State Fault Refusal} (h : step s = o) :
    (s.cycle.rst = true ∧ o = .next s.nextInputs.resetUnit) ∨
    (s.cycle.rst = false ∧ s.cycle.finish = true ∧
      ∃ w, s.inFlight = some w ∧ o = completeWord w s.nextInputs.endFlight) ∨
    (s.cycle.rst = false ∧ s.cycle.finish = false ∧ (∃ w, s.inFlight = some w) ∧ o = .next s.nextInputs.hold) ∨
    (s.cycle.rst = false ∧ s.inFlight = none ∧ s.cycle.cmdValid = true ∧
      o = .next (s.nextInputs.accept s.cycle.cmd)) ∨
    (s.cycle.rst = false ∧ s.inFlight = none ∧ s.cycle.cmdValid = false ∧ o = .next s.nextInputs.hold) := by
  subst h
  unfold step clockEdge
  cases hr : s.cycle.rst <;> cases hf : s.inFlight <;> cases hv : s.cycle.cmdValid <;>
    cases hd : s.cycle.finish <;> simp [hr, hv, hd]

theorem step_reset {s : State} (h : s.cycle.rst = true) : step s = .next s.nextInputs.resetUnit := by
  simp [step, clockEdge, h]

theorem step_complete {s : State} {w : CmdWord} (hr : s.cycle.rst = false) (hf : s.cycle.finish = true)
    (hw : s.inFlight = some w) : step s = completeWord w s.nextInputs.endFlight := by
  simp [step, clockEdge, hr, hf, hw]

theorem step_work {s : State} {w : CmdWord} (hr : s.cycle.rst = false) (hf : s.cycle.finish = false)
    (hw : s.inFlight = some w) : step s = .next s.nextInputs.hold := by
  simp [step, clockEdge, hr, hf, hw]

theorem step_accept {s : State} (hr : s.cycle.rst = false) (hw : s.inFlight = none) (hv : s.cycle.cmdValid = true) :
    step s = .next (s.nextInputs.accept s.cycle.cmd) := by
  simp [step, clockEdge, hr, hv, hw]

theorem step_idle {s : State} (hr : s.cycle.rst = false) (hw : s.inFlight = none) (hv : s.cycle.cmdValid = false) :
    step s = .next s.nextInputs.hold := by
  simp [step, clockEdge, hr, hv, hw]

@[simp] theorem after_zero (s : State) : State.after 0 s = s := rfl

/-- Running on by one more cycle, when the step is known. -/
theorem after_succ {s t : State} (h : step s = .next t) (n : Nat) : State.after (n + 1) s = State.after n t := by
  simp [State.after, h]

theorem after_one {s t : State} (h : step s = .next t) : State.after 1 s = t := after_succ h 0

end Sys2Proof.Machine
end

