-- ==== Sys2Proof/Tests/Slice0.lean ====
section
/-! SUPPORT. The model's own tests. Expected values come from the tables of spec/95_test_vectors.md and the corner cases of the rules
named, never from the model. The witness_ theorems show, for each statement with hypotheses, states and operands that meet
them, one for each clause. -/

-- One theorem at a time: kernel evaluation in many threads at once exceeds the memory the check allows.
set_option Elab.async false

namespace Sys2Proof.Machine.Tests

/-- An instruction run in the reset state latches exactly this triple and changes nothing else. -/
def runs (i : Instr) (w : Word) (c : Cause) (sat : Bool) : Bool :=
  match exec i State.reset with
  | .next t => t == { State.reset with res := w, cause := c, sat := sat }
  | _ => false

/-- The step that completes a placed command word shows this response word. -/
def answers (w : Nat) (rsp : Nat) : Bool :=
  match step (State.reset.withFetchWord 72 w) with
  | .next t => t.rsp == BitVec.ofNat 40 rsp && t.rspValid && t.inFlight == none
  | _ => false

/-! ### Well-formedness (R33, R34) -/

theorem test_wellFormed_assigned : (Command.mk 0x0B 1 0).wellFormed = true := by decide
theorem test_wellFormed_refuses_reserved : (Command.mk 0x0C 1 2).wellFormed = false := by decide
theorem test_assemblerForm_accepts : (Instr.sqrt 4 0).assemblerForm = true := by decide
theorem test_assemblerForm_refuses_b : (Instr.sqrt 4 1).assemblerForm = false := by decide

/-! ### Decoding: words written out from R30 and R32 (spec/95 sections 2.1 to 2.15) -/

theorem test_decode_add : decode 0x000001800000FFFDC0 = .ok (.add 0x00018000 0x00FFFDC0) := by decide
theorem test_decode_sub : decode 0x018000000000000001 = .ok (.sub 0x80000000 0x00000001) := by decide
theorem test_decode_mul : decode 0x027FFF800000010001 = .ok (.mul 0x7FFF8000 0x00010001) := by decide
theorem test_decode_div : decode 0x0300007FFF00000001 = .ok (.div 0x00007FFF 0x00000001) := by decide
theorem test_decode_mod : decode 0x04FFFA8000FFFE0000 = .ok (.mod 0xFFFA8000 0xFFFE0000) := by decide
theorem test_decode_sadd : decode 0x088AD00000EC780000 = .ok (.sadd 0x8AD00000 0xEC780000) := by decide
theorem test_decode_ssub : decode 0x0975300000EC780000 = .ok (.ssub 0x75300000 0xEC780000) := by decide
theorem test_decode_smul : decode 0x0A7FFFFFFF00020000 = .ok (.smul 0x7FFFFFFF 0x00020000) := by decide
theorem test_decode_sdiv : decode 0x0B0001000000000000 = .ok (.sdiv 0x00010000 0x00000000) := by decide
theorem test_decode_sqrt : decode 0x1000040000DEADBEEF = .ok (.sqrt 0x00040000 0xDEADBEEF) := by decide
theorem test_decode_exp : decode 0x110001000012345678 = .ok (.exp 0x00010000 0x12345678) := by decide
theorem test_decode_log : decode 0x120002B7E100000000 = .ok (.log 0x0002B7E1 0x00000000) := by decide
theorem test_decode_log2 : decode 0x1300020000FFFFFFFF = .ok (.log2 0x00020000 0xFFFFFFFF) := by decide
theorem test_decode_slog2 : decode 0x1BFFFF000000000000 = .ok (.slog2 0xFFFF0000 0x00000000) := by decide
theorem test_decode_reserved : decode 0x180001000000020000 = .error (.reservedOpcode 0x18) := by decide
theorem test_decodeTableWord : decodeTableWord 72 0x1B0000000000000000 = some (.slog2 0 0) ∧
    decodeTableWord 72 0x050000000000000000 = none := by decide

/-! ### Meanings (spec/95 sections 2.1 to 2.14) -/

theorem test_add : runs (.add 0x00018000 0xFFFDC000) 0xFFFF4000 .none false = true := by decide
theorem test_add_carve_out : runs (.add 0xC0000000 0xC0000000) 0x80000000 .overflow false = true := by decide
theorem test_sub : runs (.sub 0x80000000 0xFFFFFFFF) 0x80000001 .none false = true := by decide
theorem test_sub_overflow : runs (.sub 0x00000000 0x80000000) 0x80000000 .overflow false = true := by decide
theorem test_mul_tie : runs (.mul 0xFFFFFFFD 0x00008000) 0xFFFFFFFE .none false = true := by decide
theorem test_mul_overflow_by_rounding : runs (.mul 0x7FFF8000 0x00010001) 0x80000000 .overflow false = true := by decide
theorem test_div_toward_zero : runs (.div 0xFFFF0000 0x00030000) 0xFFFFAAAB .none false = true := by decide
theorem test_div_zero : runs (.div 0x80000000 0x00000000) 0x80000000 .divzero false = true := by decide
theorem test_mod_sign : runs (.mod 0xFFFA8000 0xFFFE0000) 0xFFFE8000 .none false = true := by decide
theorem test_mod_min : runs (.mod 0x80000000 0xFFFFFFFF) 0x00000000 .none false = true := by decide
theorem test_sadd_min : runs (.sadd 0x80000000 0x80000000) 0x80000000 .none true = true := by decide
theorem test_sadd : runs (.sadd 0x80000000 0x7FFFFFFF) 0xFFFFFFFF .none false = true := by decide
theorem test_ssub_max : runs (.ssub 0x7FFFFFFF 0xFFFFFFFF) 0x7FFFFFFF .none true = true := by decide
theorem test_ssub : runs (.ssub 0x00000000 0x7FFFFFFF) 0x80000001 .none false = true := by decide
theorem test_smul_min : runs (.smul 0x00B60000 0xFF4A0000) 0x80000000 .none true = true := by decide
theorem test_smul_tie : runs (.smul 0x00018000 0x00000001) 0x00000002 .none false = true := by decide
theorem test_sdiv_max : runs (.sdiv 0x80000000 0xFFFF8000) 0x7FFFFFFF .none true = true := by decide
theorem test_sdiv : runs (.sdiv 0x00000002 0x00000001) 0x00020000 .none false = true := by decide
theorem test_sqrt_rounds_up : runs (.sqrt 0x0000000A 0) 0x0000032A .none false = true := by decide +kernel
theorem test_sqrt_max : runs (.sqrt 0x7FFFFFFF 0) 0x00B504F3 .none false = true := by decide +kernel
theorem test_exp_negative : runs (.exp 0xFFFF8000 0) 0x00009B45 .none false = true := by decide
theorem test_exp_largest : runs (.exp 0x000A65AF 0) 0x7FFF2571 .none false = true := by decide +kernel
theorem test_log : runs (.log 0x000A0000 0) 0x00024D75 .none false = true := by decide +kernel
theorem test_log_lowest : runs (.log 0x00000001 0) 0xFFF4E8E0 .none false = true := by decide +kernel
theorem test_log2 : runs (.log2 0x00000003 0) 0xFFF195C0 .none false = true := by decide +kernel
theorem test_log2_max : runs (.log2 0x7FFFFFFF 0) 0x000EFFFF .none false = true := by decide +kernel
theorem test_slog2 : runs (.slog2 0x000A0000 0) 0x00035269 .none false = true := by decide +kernel
theorem test_slog2_clamp : runs (.slog2 0x00000000 0) 0x80000000 .none true = true := by decide

/-- The trace of the logarithm engine for 10.0 (spec/95 section 2.16): the state after 9 of its 16 squarings. -/
theorem test_log2_trace : logLoop 9 { m := 0xA0000000, frac := 0 } = { m := 0xE319A09D, frac := 0xA4 } := by decide
/-- spec/95 section 2.16: the worst case of the exponential of a fraction. -/
theorem test_expFrac : expFrac 64283 = 174771 := by decide
theorem test_isqrt48 : isqrt48 (2 ^ 47 - 1) = { root := 11863283, rem := 4817238 } := by decide

/-! ### The step, reset and the listing -/

/-- P6, step 2: a reserved opcode completes. -/
theorem test_step_reserved : answers 0x0C0001000000010000 0x1180000000 = true := by decide
/-- spec/95 section 2.9. -/
theorem test_step_sdiv : answers 0x0B0001000000000000 0x0980000000 = true := by decide

/-- P7: a command is accepted, reset arrives before its completion, and it is presented again. -/
theorem test_reset_during_command :
    (State.after 4 { State.reset with inputs := [offerCycle 0x100004000000000000,
      { rst := true, cmdValid := false, cmd := 0, finish := true }, offerCycle 0x100004000000000000, completionCycle] }).rsp
      = 0x0000020000 := by decide +kernel

/-- R37: `SMUL MAX, TWO`, and its 18 digits (R23). -/
theorem test_listing : Line.assemble 0 (.instr .smul (.named .max) (some (.named .two))) = some 0x0A7FFFFFFF00020000 := by
  decide
theorem test_cmdText : cmdText 0x0A7FFFFFFF00020000 =
    ['0', 'A', '7', 'F', 'F', 'F', 'F', 'F', 'F', 'F', '0', '0', '0', '2', '0', '0', '0', '0'] := by decide
/-- N12: `fx(-2.25)`, `from_int(-32768)`, and what they leave undefined. -/
theorem test_fx : fxWord (-225) 2 = some 0xFFFDC000 ∧ fxWord 1 1 = none ∧ fromInt (-32768) = some 0x80000000 ∧
    fromInt 32768 = none := by decide

/-! ### Witnesses of the statements' hypotheses -/

/-- A state with a command in flight whose latency ends in the second of its cycles, with an offer that must wait. -/
def busy : State :=
  { res := 7, cause := .none, sat := false, inFlight := some 0x000005000000030000, rspValid := false,
    inputs := [{ rst := false, cmdValid := true, cmd := 1, finish := false }, completionCycle] }

theorem witness_StepKeepsWf : busy.wf ∧ step busy = .next busy.nextInputs.hold :=
  ⟨by decide, step_work (w := 0x000005000000030000) rfl rfl rfl⟩

theorem witness_CompletedCommandIsSound :
    (∃ t, completeWord 0x030001000000000000 State.reset = .next t ∧ t.cause ≠ .none ∧ t.res = 0x80000000) ∧
    (∃ t, completeWord 0x0280000000FFFF0000 State.reset = .next t ∧ t.cause = .overflow) ∧
    (∃ t, completeWord 0x087FFFFFFF00000001 State.reset = .next t ∧ t.sat = true) ∧
    (∃ t, completeWord 0x000005000000030000 State.reset = .next t ∧ t.cause = .none ∧ t.sat = false) :=
  ⟨⟨_, rfl, by decide⟩, ⟨_, rfl, by decide +kernel⟩, ⟨_, rfl, by decide +kernel⟩, ⟨_, rfl, by decide +kernel⟩⟩

theorem witness_DecodeEncodeRoundTrip : decode 0x1300020000FFFFFFFF = .ok (.log2 0x00020000 0xFFFFFFFF) := by decide

theorem witness_OpcodeMapSelectsRow :
    (0x1B000000010000000F#72 &&& 0xFF0000000000000000#72 = 0x1B0000000000000000#72) ∧
    (0x1A000000010000000F#72 &&& 0xFF0000000000000000#72 ≠ 0x1B0000000000000000#72) := by decide

theorem witness_OneOperandCommandsIgnoreB : Mnemonic.sqrt.usesB = false ∧ Mnemonic.sdiv.usesB = true := by decide

theorem witness_ReservedOpcodeDeliversIllegalOp :
    0x05#8 ∉ assignedOpcodes ∧ 0x0C#8 ∉ assignedOpcodes ∧ 0x1A#8 ∉ assignedOpcodes ∧ 0xFF#8 ∉ assignedOpcodes := by decide

theorem witness_StatusByteFields : busy.wf ∧ busy.status = 0x00 := by decide

/-- In range at both ends, overflow at both ends. -/
theorem witness_AddResult :
    signed (0x7FFFFFFF : Word) + signed (0 : Word) = 2 ^ 31 - 1 ∧ signed (0x7FFFFFFF : Word) + signed (1 : Word) = 2 ^ 31 ∧
    signed (0x80000001 : Word) + signed (0 : Word) = -2 ^ 31 + 1 ∧
    signed (0x80000001 : Word) + signed (0xFFFFFFFF : Word) = -2 ^ 31 := by decide

theorem witness_SubResult :
    signed (0x7FFFFFFF : Word) - signed (0 : Word) = 2 ^ 31 - 1 ∧ signed (0 : Word) - signed (0x80000000 : Word) = 2 ^ 31 ∧
    signed (0 : Word) - signed (0x7FFFFFFF : Word) = -2 ^ 31 + 1 ∧
    signed (0xFFFFFFFF : Word) - signed (0x7FFFFFFF : Word) = -2 ^ 31 := by decide

theorem witness_OverflowBitTests : (∃ t, exec (.add 0xC0000000 0xC0000000) busy = .next t) ∧
    (∃ t, exec (.sub 0xFFFFFFFF 0x7FFFFFFF) busy = .next t) ∧ (∃ t, exec (.mul 0x80000000 0x80000000) busy = .next t) :=
  ⟨⟨_, rfl⟩, ⟨_, rfl⟩, ⟨_, rfl⟩⟩

theorem witness_ProductRounding : rnd16 0x8000 = 1 ∧ rnd16 (-0x8000) = -1 ∧ rnd16 0x7FFF = 0 ∧ rnd16 (-0x7FFF) = 0 := by
  decide

/-- The product and its rounding, in range, at the overflow by rounding alone, and at the carve-out. -/
theorem witness_MulResult :
    (signed (0x7FFF8000 : Word) * signed (0x00010001 : Word) = 2 ^ 47 - 2 ^ 15 ∧
      (2 ^ 31 : Int) = (2 ^ 47 - 2 ^ 15 : Int).sign * ((|2 ^ 47 - 2 ^ 15| + 0x8000) / 65536)) ∧
    (signed (0x80000000 : Word) * signed (0x00010000 : Word) = -2 ^ 47 ∧
      (-2 ^ 31 : Int) = (-2 ^ 47 : Int).sign * ((|(-2 ^ 47 : Int)| + 0x8000) / 65536)) ∧
    (signed (0x00000001 : Word) * signed (0x00008000 : Word) = 0x8000 ∧
      (1 : Int) = (0x8000 : Int).sign * ((|0x8000| + 0x8000) / 65536)) := by decide

theorem witness_TruncatingDivision : (3 : Int) ≠ 0 ∧ tdiv (-7) 3 = -2 ∧ tdiv 7 (-3) = -2 ∧ tdiv (-7) (-3) = 2 := by decide

/-- A zero divisor, a quotient in range, one above and one below the range. -/
theorem witness_DivResult : (0x00000000 : Word) = 0 ∧ (0x00000001 : Word) ≠ 0 ∧
    signed (0x00007FFF : Word) * 65536 = (2 ^ 31 - 65536) * signed (1 : Word) + 0 ∧
    signed (0x00008000 : Word) * 65536 = 2 ^ 31 * signed (1 : Word) + 0 ∧
    signed (0xFFFF8000 : Word) * 65536 = -2 ^ 31 * signed (1 : Word) + 0 := by decide

theorem witness_ModResult : (0x00000000 : Word) = 0 ∧ (0xFFFFFFFF : Word) ≠ 0 := by decide

theorem witness_SubFromZeroNegates : (0x80000001 : Word) ≠ 0x80000000 := by decide

theorem witness_ClampFollowsOperandSigns :
    (∃ t, exec (.sadd 0x80000000 0x00000000) busy = .next t ∧ t.sat = true) ∧
    (∃ t, exec (.ssub 0x00000000 0x80000000) busy = .next t ∧ t.sat = true) ∧
    (∃ t, exec (.smul 0x80000000 0x00010000) busy = .next t ∧ t.sat = true) ∧
    (∃ t, exec (.sdiv 0x00010000 0xFFFFFFFF) busy = .next t ∧ t.sat = true) :=
  ⟨⟨_, rfl, by decide⟩, ⟨_, rfl, by decide⟩, ⟨_, rfl, by decide⟩, ⟨_, rfl, by decide⟩⟩

/-- The operands of R61's corner cases, one for each clause: in range at the low end, clamped at the top, and at the carve-out. -/
theorem witness_SaddResult : runs (.sadd 0x80000001 0x00000000) 0x80000001 .none false = true ∧
    runs (.sadd 0x7FFFFFFF 0x00000001) 0x7FFFFFFF .none true = true ∧
    runs (.sadd 0xC0000000 0xC0000000) 0x80000000 .none true = true := by decide

/-- R62's corner cases. -/
theorem witness_SsubResult : runs (.ssub 0x00000000 0x7FFFFFFF) 0x80000001 .none false = true ∧
    runs (.ssub 0x00000000 0x80000000) 0x7FFFFFFF .none true = true ∧
    runs (.ssub 0xFFFFFFFF 0x7FFFFFFF) 0x80000000 .none true = true := by decide

/-- R63's corner cases; the products and roundings of the same operands stand in witness_MulResult. -/
theorem witness_SmulResult : runs (.smul 0x00000001 0x00008000) 0x00000001 .none false = true ∧
    runs (.smul 0x7FFF8000 0x00010001) 0x7FFFFFFF .none true = true ∧
    runs (.smul 0x80000000 0x00010000) 0x80000000 .none true = true := by decide

theorem witness_SdivResult : runs (.sdiv 0x00010000 0xFFFFFFFF) 0x80000000 .none true = true ∧
    runs (.sdiv 0x00000000 0x00000000) 0x80000000 .divzero false = true := by decide

theorem witness_SaturatingAgreesWithPlain :
    runs (.add 0x7FFFFFFF 0x00000001) 0x80000000 .overflow false = true ∧
    runs (.sadd 0x7FFFFFFF 0x00000001) 0x7FFFFFFF .none true = true ∧
    runs (.div 0x00010000 0x00000000) 0x80000000 .divzero false = true := by decide

/-- R66: the divisor 7.25 of P5, and the smallest allowed one. -/
theorem witness_DivisionIdentity : 65536 ≤ |signed (0x00074000 : Word)| ∧ 65536 ≤ |signed (0xFFFF0000 : Word)| ∧
    runs (.smul 0x007B74BC 0x00074000) 0x037F0E53 .none false = true := by decide

theorem witness_SquareRootRecurrence : (3 : Nat) ^ 2 + 6 = 60 >>> (2 * (0 + 1)) ∧ 6 ≤ 2 * 3 ∧ 2 ^ 48 - 1 < 2 ^ 48 := by decide

theorem witness_SqrtResult : signed (0xFFFFFFFF : Word) < 0 ∧ 0 ≤ signed (0x00000000 : Word) ∧
    runs (.sqrt 0xFFFFFFFF 5) 0x80000000 .domain false = true := by decide

theorem witness_SqrtProperties : 0 ≤ signed (2 : Word) ∧ signed (2 : Word) ≤ signed (3 : Word) ∧
    signed (0x00040000 : Word) * 65536 = 131072 ^ 2 := by decide

theorem witness_ExpFractionRange : expFrac 65535 = 178143 ∧ (65535 : Nat) ≤ 65535 := by decide

theorem witness_ExpResult : signed xSatWord = 681392 ∧ signed (0x000A65AF : Word) < 681392 ∧ signed (0xFFFFFFFF : Word) < 0 ∧
    runs (.exp 0x000A65B0 0) 0x7FFFFFFF .none true = true := by decide

theorem witness_ExpUnderflow : signed (0xFFF46CE6 : Word) = -758554 ∧
    runs (.exp 0xFFF46CE6 0) 0x00000000 .none false = true := by decide +kernel

theorem witness_LogarithmEngine : (1 : Nat) ≤ 2 ^ 31 - 1 ∧ bitScan (2 ^ 31 - 1) 30 = 30 ∧ bitScan 1 30 = 0 ∧
    (2 ^ 31 ≤ 0xA0000000 ∧ 0xA0000000 < 2 ^ 32) := by decide

theorem witness_LogarithmAccuracy : (1 : Nat) ≤ 0xA0000 ∧ 0xA0000 ≤ 2 ^ 31 - 1 ∧ log2Core 0xA0000 = 217705 := by decide +kernel

theorem witness_Log2Result : signed (0 : Word) ≤ 0 ∧ 0 < signed (1 : Word) ∧ signed (0x40000000 : Word) = 2 ^ 30 ∧
    signed (0x40000000 : Word) = 2 * signed (0x20000000 : Word) ∧
    runs (.log2 0x00000000 0) 0x80000000 .domain false = true := by decide

theorem witness_LogResult : runs (.log 0x80000000 0) 0x80000000 .domain false = true ∧
    runs (.log 0x7FFFFFFF 0) 0x000A65AD .none false = true := by decide +kernel

theorem witness_Slog2Result : runs (.slog2 0xFFFF0000 0) 0x80000000 .none true = true ∧
    runs (.slog2 0x00000001 0) 0xFFF00000 .none false = true := by decide +kernel

theorem witness_ExpOfLogNeverSaturates : 0 < signed (0x7FFFFFFF : Word) ∧ 0 < signed (1 : Word) := by decide

theorem witness_CausesExactlyWhen : ∃ t, completeWord 0x110002B7E1FFFFFFFF busy = .next t := ⟨_, rfl⟩

theorem witness_StepRunsDecodedInstruction :
    busy.nextInputs.inFlight = some 0x000005000000030000 ∧ busy.nextInputs.cycle.rst = false ∧
    busy.nextInputs.cycle.finish = true ∧ decode 0x000005000000030000 = .ok (.add 0x00050000 0x00030000) ∧
    decodeTableWord 72 0x130000000000000000 = some (.log2 0 0) := by decide

theorem witness_TransactionRule :
    (∃ t, step busy.nextInputs = .next t ∧ t.result ≠ busy.nextInputs.result) ∧
    busy.inputs = [{ rst := false, cmdValid := true, cmd := 1, finish := false }] ++ completionCycle :: [] ∧
    (∀ d ∈ [({ rst := false, cmdValid := true, cmd := 1, finish := false } : Cycle)], d.working = true) ∧
    completionCycle.finishing = true :=
  ⟨⟨_, rfl, by decide⟩, rfl, by decide, rfl⟩

theorem witness_CommandHandshake :
    (State.reset.inFlight = none ∧ ({ State.reset with inputs := [offerCycle 5] } : State).cycle.cmdValid = true) ∧
    State.reset.cycle.cmdValid = false ∧ State.reset.cycle.rst = false ∧
    (completionCycle.rst = (offerCycle 5).rst ∧ idleCycle.finish = completionCycle.finish) := by decide

theorem witness_StrobeMarksCompletion : ∃ t, step busy.nextInputs = .next t ∧ t.rspValid = true := ⟨_, rfl, rfl⟩

theorem witness_ResetCycle :
    ({ busy with inputs := [{ rst := true, cmdValid := true, cmd := 1, finish := true }] } : State).cycle.rst = true := by decide

theorem witness_ResponsesInAcceptOrder : (∀ c ∈ busy.inputs, c.rst = false) ∧
    ({ State.reset with inputs := [offerCycle 5] } : State).accepts = true := by decide

theorem witness_ListingAssembles : Mnemonic.add.usesB = true ∧ Mnemonic.slog2.usesB = false ∧
    Operand.res.word 7 = some 7 ∧ (Operand.named .pi).word 7 = some 0x0003243F := by decide

end Sys2Proof.Machine.Tests
end

section
/-! What a completing command word does, said once (R22, R34, R36), and the purity of commands (R4). -/

namespace Sys2Proof.Machine

/-- R34: a command whose opcode byte is reserved delivers the fixed result, whatever its operands hold. -/
theorem execute_of_not_wellFormed {c : Command} (h : c.wellFormed = false) :
    execute c.op c.a c.b = illegalResult := by
  unfold execute
  split
  case h_15 => rfl
  all_goals
    rename_i hop
    rw [Command.wellFormed, hop] at h
    exact absurd h (by decide)

/-- R28: latching a result leaves everything but RES, CAUSE and SAT as it was. -/
theorem State.sameRest_latch (s : State) (r : Result) : s.sameRest (s.latch r) :=
  ⟨s.latch_inFlight r, s.latch_rspValid r, s.latch_inputs r⟩

/-- R22, R36: every command word completes, by latching `executeWord` of it: decoding and dispatching agree with the direct
function, on the assigned and on the reserved opcode bytes. -/
theorem completeWord_eq_next_latch (w : CmdWord) (s : State) :
    completeWord w s = .next (s.latch (executeWord w)) := by
  rcases decodeCommand_cases (Command.ofWord w) with ⟨i, hdecode, hcommand, -⟩ | ⟨hdecode, hreserved⟩
  · have hresult : execute i.opcode i.operandA i.operandB = executeWord w := by
      rw [executeWord, ← hcommand, Instr.command]
    rw [completeWord, decode, hdecode, ← hresult]
    exact exec_eq_deliver i s
  · have hresult : executeWord w = illegalResult := execute_of_not_wellFormed hreserved
    rw [completeWord, decode, hdecode, hresult]
    rfl

/-- Settles O45: from either state the word completes by latching `executeWord` of it, a triple no state enters. -/
theorem commandsArePure : Obligations.CommandsArePure := by
  unfold Obligations.CommandsArePure
  intro w s s'
  exact ⟨s.latch (executeWord w), s'.latch (executeWord w), completeWord_eq_next_latch w s,
    completeWord_eq_next_latch w s', rfl, s.sameRest_latch _, s'.sameRest_latch _⟩

end Sys2Proof.Machine
end

section
/-! R17 as rules: which results are sound. -/

namespace Sys2Proof.Machine

/-- R17, item 1. -/
theorem errorResult_sound {c : Cause} (h : c ≠ .none) : (errorResult c).sound :=
  ⟨fun _ => ⟨rfl, rfl⟩, nofun, fun hc => absurd hc h⟩

/-- R17, item 3: a value in range is not the reserved word. -/
theorem plainResult_wrap32_sound {n : Int} (h : inrange n) : (plainResult (wrap32 n)).sound :=
  ⟨fun hc => absurd rfl hc, nofun, fun _ _ => wrap32_ne_reserved h⟩

/-- R17, item 2. -/
theorem clampResult_sound {w : Word} (h : w = maxWord ∨ w = minWord) : (clampResult w).sound :=
  ⟨fun hc => absurd rfl hc, fun _ => ⟨rfl, h⟩, nofun⟩

/-- R40: the sentinel policy delivers a sound result, whatever the exact result is. -/
theorem deliverSentinel_sound (n : Int) : (deliverSentinel n).sound := by
  rcases deliverSentinel_cases n with ⟨h, heq⟩ | ⟨-, heq⟩ <;> rw [heq]
  · exact plainResult_wrap32_sound h
  · exact errorResult_sound (by decide)

/-- R60: so does the clamp policy. -/
theorem deliverClamp_sound (n : Int) : (deliverClamp n).sound := by
  rcases deliverClamp_cases n with ⟨h, heq⟩ | ⟨-, heq⟩ | ⟨-, heq⟩ <;> rw [heq]
  · exact plainResult_wrap32_sound h
  · exact clampResult_sound (.inl rfl)
  · exact clampResult_sound (.inr rfl)

end Sys2Proof.Machine
end

section
/-! The values MOD, SQRT and LOG2 narrow without a test are in range (R47, R70, R79). -/

namespace Sys2Proof.Machine

/-- R47: a remainder is smaller in magnitude than its divisor, so never the reserved minimum. -/
theorem inrange_remainder (a b : Word) (hb : signed b ≠ 0) :
    inrange (signed a - tdiv (signed a) (signed b) * signed b) := by
  have hrem : signed a - tdiv (signed a) (signed b) * signed b = (signed a).tmod (signed b) := by
    rw [tdiv_eq_tdiv _ _ hb, Int.tmod_def, mul_comm]
  have hlt := Nat.mod_lt (signed a).natAbs (Int.natAbs_pos.mpr hb)
  rw [← Int.natAbs_tmod] at hlt
  have hlower := Laws.signed_lower b
  have hupper := Laws.signed_upper b
  rw [hrem]
  constructor <;> omega

/-- R71, R79: shifting one more bit into a number of `n` bits makes a number of `n + 1` bits. -/
theorem shiftLeft_one_or_lt {x bit n : Nat} (hx : x < 2 ^ n) (hbit : bit ≤ 1) : x <<< 1 ||| bit < 2 ^ (n + 1) := by
  refine Nat.or_lt_two_pow ?_ ?_
  · rw [Nat.shiftLeft_eq, pow_succ]; omega
  · have := Nat.one_lt_two_pow (n := n + 1) (by omega)
    omega

theorem isqrtStep_root_lt {N i n : Nat} {p : RootRem} (h : p.root < 2 ^ n) :
    (isqrtStep N i p).root < 2 ^ (n + 1) := by
  simp only [isqrtStep]
  split
  · exact shiftLeft_one_or_lt h le_rfl
  · simpa using shiftLeft_one_or_lt h (Nat.zero_le 1)

/-- R71: each iteration adds one bit to the root. -/
theorem isqrtLoop_root_lt (N i : Nat) {n : Nat} {p : RootRem} (h : p.root < 2 ^ n) :
    (isqrtLoop N i p).root < 2 ^ (n + i) := by
  induction i generalizing n p with
  | zero => exact h
  | succ i ih =>
    rw [← Nat.add_assoc, Nat.add_right_comm]
    exact ih (isqrtStep_root_lt h)

theorem isqrt48_root_lt (N : Nat) : (isqrt48 N).root < 2 ^ 24 :=
  isqrtLoop_root_lt N sqrtIterations (n := 0) Nat.one_pos

theorem logStep_frac_lt {n : Nat} {p : LogAcc} (h : p.frac < 2 ^ n) : (logStep p).frac < 2 ^ (n + 1) := by
  simp only [logStep]
  split
  · exact shiftLeft_one_or_lt h le_rfl
  · simpa using shiftLeft_one_or_lt h (Nat.zero_le 1)

/-- R79: each squaring adds one bit to the fraction. -/
theorem logLoop_frac_lt (k : Nat) {n : Nat} {p : LogAcc} (h : p.frac < 2 ^ n) :
    (logLoop k p).frac < 2 ^ (n + k) := by
  induction k generalizing n p with
  | zero => exact h
  | succ k ih =>
    rw [← Nat.add_assoc, Nat.add_right_comm]
    exact ih (logStep_frac_lt h)

theorem bitScan_le (x k : Nat) : bitScan x k ≤ k := by
  induction k with
  | zero => exact le_rfl
  | succ k ih =>
    unfold bitScan
    split
    · exact le_rfl
    · exact Nat.le_succ_of_le ih

/-- R79: an integer part from -16 to 14 and 16 fraction bits stay far inside the format. -/
theorem inrange_log2Core (x : Nat) : inrange (log2Core x) := by
  have hscan := bitScan_le x 30
  have hfrac := logLoop_frac_lt log2Iterations (n := 0)
    (p := { m := (x <<< (31 - bitScan x 30)) % 2 ^ 32, frac := 0 }) Nat.one_pos
  rw [show (2 : Nat) ^ (0 + log2Iterations) = 65536 from rfl] at hfrac
  simp only [log2Core, inrange]
  omega

end Sys2Proof.Machine
end

section
/-! EXP against the true exponential (R76, R77). -/

namespace Sys2Proof.Machine

/-- R76: a factor `1 + 2^-k` of the recurrence is at most the exponential of its table entry, the entry taken one unit too large. -/
theorem expTable_factor_le (i : Nat) (hi : i < expTable.length) :
    (1 : ℝ) + 1 / 2 ^ (0 + i) ≤ Real.exp ((expTable[i] + 1) / 2 ^ 30) := by
  refine le_trans ?_ (Real.sum_le_exp_of_nonneg (by positivity) 13)
  have : i < 21 := hi
  interval_cases i <;> norm_num [expTable, Finset.sum_range_succ, Nat.factorial]

/-- R77: one step multiplies the accumulator by at most the exponential of what it takes from the exponent, and one unit. -/
theorem expStep_y_le {k e : Nat} (h : (1 : ℝ) + 1 / 2 ^ k ≤ Real.exp ((e + 1) / 2 ^ 30)) (p : ExpAcc) :
    ((expStep k e p).y : ℝ) ≤ p.y * Real.exp ((p.t - (expStep k e p).t + 1) / 2 ^ 30) := by
  unfold expStep
  split
  case isTrue ht =>
    have hshift : ((p.y >>> k : Nat) : ℝ) ≤ p.y / 2 ^ k := by
      rw [Nat.shiftRight_eq_div_pow]
      exact_mod_cast Nat.cast_div_le
    rw [Nat.cast_sub ht, sub_sub_cancel]
    calc ((p.y + p.y >>> k : Nat) : ℝ) ≤ p.y + p.y / 2 ^ k := by push_cast; gcongr
      _ = p.y * (1 + 1 / 2 ^ k) := by ring
      _ ≤ p.y * Real.exp ((e + 1) / 2 ^ 30) := by gcongr
  case isFalse =>
    exact le_mul_of_one_le_right (by positivity) (Real.one_le_exp (by simp))

/-- R77: the recurrence never exceeds the true exponential by more than one unit of the exponent for each table entry. -/
theorem expLoop_y_le (table : List Nat) (k : Nat) (p : ExpAcc)
    (h : ∀ (i : Nat) (hi : i < table.length), (1 : ℝ) + 1 / 2 ^ (k + i) ≤ Real.exp ((table[i] + 1) / 2 ^ 30)) :
    ((expLoop k table p).y : ℝ) ≤ p.y * Real.exp ((p.t + table.length) / 2 ^ 30) := by
  induction table generalizing k p with
  | nil => exact le_mul_of_one_le_right (by positivity) (Real.one_le_exp (by positivity))
  | cons e rest ih =>
    have hrest := ih (k + 1) (expStep k e p) fun i hi => by
      rw [Nat.add_assoc, Nat.add_comm 1]
      exact h (i + 1) (Nat.succ_lt_succ hi)
    have hstep := expStep_y_le (h 0 (by simp)) p
    simp only [List.getElem_cons_zero, Nat.add_zero] at hstep
    calc ((expLoop (k + 1) rest (expStep k e p)).y : ℝ)
        ≤ (expStep k e p).y * Real.exp (((expStep k e p).t + rest.length) / 2 ^ 30) := hrest
      _ ≤ p.y * Real.exp ((p.t - (expStep k e p).t + 1) / 2 ^ 30) *
            Real.exp (((expStep k e p).t + rest.length) / 2 ^ 30) := by gcongr
      _ = p.y * Real.exp ((p.t + (e :: rest).length) / 2 ^ 30) := by
        rw [mul_assoc, ← Real.exp_add, List.length_cons]; push_cast; ring_nf

/-- R77: the exponential of a fraction is at most the true one, 21 units of the 30-bit exponent and half a raw unit more. -/
theorem expFrac_le_exp (r : Nat) :
    (expFrac r : ℝ) ≤ 65536 * Real.exp (r / 65536 + 21 / 2 ^ 30) + 1 / 2 := by
  have hloop := expLoop_y_le expTable 0 { t := r <<< 14, y := 0x40000000 } expTable_factor_le
  have hexponent : (((r <<< 14 : Nat) : ℝ) + expTable.length) / 2 ^ 30 = r / 65536 + 21 / 2 ^ 30 := by
    rw [Nat.shiftLeft_eq, show expTable.length = 21 from rfl]; push_cast; ring
  rw [hexponent] at hloop
  have hround : (expFrac r : ℝ) ≤
      (((expLoop 0 expTable { t := r <<< 14, y := 0x40000000 }).y + 0x2000 : Nat) : ℝ) / 2 ^ 14 := by
    rw [expFrac, Nat.shiftRight_eq_div_pow]
    exact_mod_cast Nat.cast_div_le
  push_cast at hround hloop
  linarith

/-- R77: the true exponential of the largest fraction of a range bounds the recurrence on the whole range. -/
theorem expFrac_le_of_exp_lt {r R B : Nat} (hr : r ≤ R)
    (hB : 65536 * Real.exp (R / 65536 + 21 / 2 ^ 30) + 1 / 2 < B + 1) : expFrac r ≤ B := by
  have hmono : Real.exp (r / 65536 + 21 / 2 ^ 30) ≤ Real.exp (R / 65536 + 21 / 2 ^ 30) := by gcongr
  have hlt : (expFrac r : ℝ) < B + 1 := by linarith [expFrac_le_exp r]
  exact Nat.lt_succ_iff.mp (by exact_mod_cast hlt)

/-- R77: the largest value of the exponential of a fraction. -/
theorem expFrac_le {r : Nat} (h : r ≤ 65535) : expFrac r ≤ 178143 := by
  refine expFrac_le_of_exp_lt h ?_
  have := Real.exp_bound' (x := 65535 / 65536 + 21 / 2 ^ 30) (by norm_num) (by norm_num) (n := 13) (by norm_num)
  norm_num [Finset.sum_range_succ, Nat.factorial] at this ⊢
  linarith

/-- R78: its largest value on the fractions that occur beside the integer part 10, below X_SAT. -/
theorem expFrac_le_below_xSat {r : Nat} (h : r ≤ 26031) : expFrac r ≤ 97495 := by
  refine expFrac_le_of_exp_lt h ?_
  have := Real.exp_bound' (x := 26031 / 65536 + 21 / 2 ^ 30) (by norm_num) (by norm_num) (n := 13) (by norm_num)
  norm_num [Finset.sum_range_succ, Nat.factorial] at this ⊢
  linarith

end Sys2Proof.Machine
end

section
/-! EXP's chain of multiplications in plain arithmetic (R78): below X_SAT no clamp happens in it. -/

namespace Sys2Proof.Machine

/-- R63, R78: one multiplication of the chain by a factor with raw word `m`, on natural numbers. -/
def mulRound (m f : Nat) : Nat := (f * m + 0x8000) / 65536

theorem mulRound_monotone (m : Nat) : Monotone (mulRound m) := fun _ _ h => by
  unfold mulRound; gcongr

/-- R78: a factor below 1.0 lets no value grow. -/
theorem mulRound_le {m : Nat} (hm : m < 65536) (f : Nat) : mulRound m f ≤ f := by
  have : f * m ≤ f * 65535 := by gcongr; omega
  unfold mulRound
  omega

/-- A natural number that is a word of the format is in range. -/
theorem inrange_natCast {n : Nat} (h : n < 2 ^ 31) : inrange n := by
  constructor <;> omega

theorem rnd16_natCast (p : Nat) : rnd16 p = ((p + 0x8000) / 65536 : Nat) := by
  rw [rnd16, if_pos (Int.natCast_nonneg p), Laws.shr_sixteen]
  norm_cast

/-- R63: F_SMUL of two non-negative words, when its result is in range. -/
theorem fSmul_natCast {f m : Nat} (hf : f < 2 ^ 31) (hm : m < 2 ^ 31) (h : mulRound m f < 2 ^ 31) :
    fSmul (wrap32 f) (wrap32 m) = plainResult (wrap32 (mulRound m f : Nat)) := by
  rw [fSmul, signed_wrap32_inrange (inrange_natCast hf), signed_wrap32_inrange (inrange_natCast hm), ← Nat.cast_mul,
    rnd16_natCast]
  exact deliverClamp_inrange (inrange_natCast h)

/-- R78: as long as every product is in range, the chain is plain iteration and collects no clamp. -/
theorem smulChain_eq_plainResult {m : Nat} (hm : m < 2 ^ 31) (n : Nat) {f : Nat}
    (h : ∀ j ≤ n, (mulRound m)^[j] f < 2 ^ 31) :
    smulChain (wrap32 m) n (wrap32 f) false = plainResult (wrap32 ((mulRound m)^[n] f : Nat)) := by
  induction n generalizing f with
  | zero => rfl
  | succ n ih =>
    have hrest : ∀ j ≤ n, (mulRound m)^[j] (mulRound m f) < 2 ^ 31 := fun j hj => by
      simpa using h (j + 1) (Nat.succ_le_succ hj)
    rw [smulChain, fSmul_natCast (f := f) (h 0 (Nat.zero_le _)) hm (hrest 0 (Nat.zero_le _))]
    exact ih hrest

/-- R78: below zero the chain only shrinks the exponential of the fraction. -/
theorem iterate_mulRound_invE_lt {f : Nat} (hf : f ≤ 178143) (j : Nat) : (mulRound 24109)^[j] f < 2 ^ 31 := by
  have : (mulRound 24109)^[j] f ≤ f := Function.iterate_le_id_of_le_id (mulRound_le (by norm_num)) j f
  omega

/-- R78: at most nine multiplications by e stay in the format from every fraction. -/
theorem iterate_mulRound_e_lt {f j : Nat} (hf : f ≤ 178143) (hj : j ≤ 9) : (mulRound 178145)^[j] f < 2 ^ 31 :=
  calc (mulRound 178145)^[j] f ≤ (mulRound 178145)^[j] 178143 := (mulRound_monotone _).iterate j hf
    _ < 2 ^ 31 := by interval_cases j <;> decide

/-- R78: ten do so from a fraction below that of X_SAT. -/
theorem iterate_mulRound_e_lt_below_xSat {f j : Nat} (hf : f ≤ 97495) (hj : j ≤ 10) : (mulRound 178145)^[j] f < 2 ^ 31 :=
  calc (mulRound 178145)^[j] f ≤ (mulRound 178145)^[j] 97495 := (mulRound_monotone _).iterate j hf
    _ < 2 ^ 31 := by interval_cases j <;> decide

/-- R78: from X_SAT on, EXP is a clamp. -/
theorem fExp_of_xSat_le {a : Word} (h : 681392 ≤ signed a) : fExp a = clampResult maxWord := if_pos h

/-- R78: the raw fraction of the split has a value in the recurrence's domain. -/
theorem expFrac_emod_le (x : Int) : expFrac (x % 65536).toNat ≤ 178143 := expFrac_le (by omega)

/-- R78: below X_SAT, EXP splits its operand into the integer part that counts the multiplications and a raw fraction. -/
theorem fExp_of_lt_xSat {a : Word} (h : signed a < 681392) :
    fExp a =
      if 0 ≤ signed a / 65536 then
        smulChain eWord (signed a / 65536).toNat (wrap32 (expFrac (signed a % 65536).toNat)) false
      else
        smulChain invEWord (min (-(signed a / 65536)).toNat kNeg) (wrap32 (expFrac (signed a % 65536).toNat)) false := by
  have hlt : ¬ signed a ≥ signed xSatWord := not_le.mpr h
  have hr : signed a - signed a / 65536 * 65536 = signed a % 65536 := by omega
  simp only [fExp, if_neg hlt, Laws.shr_sixteen, hr, ge_iff_le]

/-- R78: EXP from zero to X_SAT; the value is in range by itself, so no multiplication clamps. -/
theorem fExp_of_nonneg {a : Word} (h₀ : 0 ≤ signed a) (h₁ : signed a < 681392) :
    (mulRound 178145)^[(signed a / 65536).toNat] (expFrac (signed a % 65536).toNat) < 2 ^ 31 ∧
    fExp a = plainResult (wrap32
      ((mulRound 178145)^[(signed a / 65536).toNat] (expFrac (signed a % 65536).toNat) : Nat)) := by
  have hrange : ∀ j ≤ (signed a / 65536).toNat,
      (mulRound 178145)^[j] (expFrac (signed a % 65536).toNat) < 2 ^ 31 := fun j hj => by
    by_cases hten : signed a < 655360
    · exact iterate_mulRound_e_lt (expFrac_emod_le _) (by omega)
    · exact iterate_mulRound_e_lt_below_xSat (expFrac_le_below_xSat (by omega)) (by omega)
  rw [fExp_of_lt_xSat h₁, if_pos (by omega)]
  exact ⟨hrange _ le_rfl, smulChain_eq_plainResult (by norm_num) _ hrange⟩

/-- R78: EXP below zero, where no multiplication clamps either. -/
theorem fExp_of_neg {a : Word} (h : signed a < 0) :
    fExp a = plainResult (wrap32
      ((mulRound 24109)^[min (-(signed a / 65536)).toNat kNeg] (expFrac (signed a % 65536).toNat) : Nat)) := by
  rw [fExp_of_lt_xSat (by omega), if_neg (by omega)]
  exact smulChain_eq_plainResult (by norm_num) _ fun j _ => iterate_mulRound_invE_lt (expFrac_emod_le _) j

end Sys2Proof.Machine
end

section
/-! R17 for every command: whatever the opcode byte and the operand words, `execute` is sound. -/

namespace Sys2Proof.Machine

/-- R90: a command that tests for an error first is sound when what it delivers without the error is. -/
theorem sound_of_error_or {p : Prop} [Decidable p] {c : Cause} {r : Result} (hc : c ≠ .none) (h : ¬ p → r.sound) :
    (if p then errorResult c else r).sound := by
  split
  case isTrue => exact errorResult_sound hc
  case isFalse hp => exact h hp

theorem fDiv_sound (a b : Word) : (fDiv a b).sound :=
  sound_of_error_or (by decide) fun _ => deliverSentinel_sound _

theorem fMod_sound (a b : Word) : (fMod a b).sound :=
  sound_of_error_or (by decide) fun hb => plainResult_wrap32_sound (inrange_remainder a b hb)

theorem fSdiv_sound (a b : Word) : (fSdiv a b).sound :=
  sound_of_error_or (by decide) fun _ => deliverClamp_sound _

/-- R70: a root of 24 bits, rounded up by at most one. -/
theorem fSqrt_sound (a : Word) : (fSqrt a).sound := by
  have hroot := isqrt48_root_lt (shl (signed a) 16).toNat
  refine sound_of_error_or (by decide) fun _ => plainResult_wrap32_sound (inrange_natCast ?_)
  split <;> omega

/-- R78: EXP clamps from X_SAT on and nowhere else. -/
theorem fExp_sound (a : Word) : (fExp a).sound := by
  rcases lt_or_ge (signed a) 681392 with hlt | hsat
  · rcases lt_or_ge (signed a) 0 with hneg | hnonneg
    · rw [fExp_of_neg hneg]
      exact plainResult_wrap32_sound (inrange_natCast (iterate_mulRound_invE_lt (expFrac_emod_le _) _))
    · obtain ⟨hrange, heq⟩ := fExp_of_nonneg hnonneg hlt
      rw [heq]
      exact plainResult_wrap32_sound (inrange_natCast hrange)
  · rw [fExp_of_xSat_le hsat]
    exact clampResult_sound (.inl rfl)

/-- R81: the last operation of LOG is F_SMUL. -/
theorem fLog_sound (a : Word) : (fLog a).sound :=
  sound_of_error_or (by decide) fun _ => deliverClamp_sound _

theorem fLog2_sound (a : Word) : (fLog2 a).sound :=
  sound_of_error_or (by decide) fun _ => plainResult_wrap32_sound (inrange_log2Core _)

theorem fSlog2_sound (a : Word) : (fSlog2 a).sound := by
  unfold fSlog2
  split
  · exact clampResult_sound (.inr rfl)
  · exact plainResult_wrap32_sound (inrange_log2Core _)

/-- R17, R36: `execute` is sound on all 2^72 commands. -/
theorem execute_sound (op : Opcode) (a b : Word) : (execute op a b).sound := by
  unfold execute
  split
  · exact deliverSentinel_sound _
  · exact deliverSentinel_sound _
  · exact deliverSentinel_sound _
  · exact fDiv_sound a b
  · exact fMod_sound a b
  · exact deliverClamp_sound _
  · exact deliverClamp_sound _
  · exact deliverClamp_sound _
  · exact fSdiv_sound a b
  · exact fSqrt_sound a
  · exact fExp_sound a
  · exact fLog_sound a
  · exact fLog2_sound a
  · exact fSlog2_sound a
  · exact errorResult_sound (by decide)

theorem executeWord_sound (w : CmdWord) : (executeWord w).sound := execute_sound _ _ _

end Sys2Proof.Machine
end

section
/-! The status invariants at reset, after every completion and along every step (R17, R19). -/

namespace Sys2Proof.Machine

/-- Settles O1: every element of the reset state is a literal. -/
theorem resetStateValues : Obligations.ResetStateValues := by
  unfold Obligations.ResetStateValues
  exact ⟨⟨rfl, rfl, rfl⟩, rfl, rfl, rfl⟩

/-- R17, R19: the result latch that a reset leaves, that of ZERO without error and without clamp, is sound. -/
theorem resetResult_sound : Result.sound { res := 0, cause := .none, sat := false } :=
  plainResult_wrap32_sound (n := 0) (by decide)

/-- Settles O2: the result latch is that of a reset, and no strobe is high. -/
theorem resetSatisfiesWf : Obligations.ResetSatisfiesWf := by
  unfold Obligations.ResetSatisfiesWf
  exact ⟨resetResult_sound, nofun⟩

/-- R17, R22: a completed command leaves a sound result latch, whatever the state before. -/
theorem sound_of_completeWord {w : CmdWord} {s t : State} (h : completeWord w s = .next t) : t.result.sound := by
  rw [completeWord_eq_next_latch] at h
  cases h
  exact executeWord_sound w

/-- Settles O3: a step resets the result latch, writes that of a completed command, or leaves it; and only a completion, which
empties the unit, raises the strobe. -/
theorem stepKeepsWf : Obligations.StepKeepsWf := by
  unfold Obligations.StepKeepsWf
  rintro s t ⟨hsound, -⟩ hstep
  rcases step_cases hstep with ⟨-, hreset⟩ | ⟨-, -, w, -, hcomplete⟩ | ⟨-, -, -, hwork⟩ | ⟨-, -, -, haccept⟩ |
    ⟨-, -, -, hidle⟩
  · cases hreset
    exact ⟨resetResult_sound, nofun⟩
  · rw [completeWord_eq_next_latch] at hcomplete
    cases hcomplete
    exact ⟨executeWord_sound w, fun _ => rfl⟩
  · cases hwork
    exact ⟨hsound, nofun⟩
  · cases haccept
    exact ⟨hsound, nofun⟩
  · cases hidle
    exact ⟨hsound, nofun⟩

/-- R15, R16: the status byte of an error. -/
theorem statusByte_of_error {c : Cause} (h : c ≠ .none) :
    statusByte c false = 0x05 ∨ statusByte c false = 0x09 ∨ statusByte c false = 0x0D ∨ statusByte c false = 0x11 := by
  cases c
  case none => exact absurd rfl h
  all_goals decide

/-- R17, item 4: the reserved word in a sound result latch is an error or a clamp, and STATUS tells which. -/
theorem status_of_reserved_word {t : State} (h : t.result.sound) (hres : t.res = 0x80000000) :
    (t.cause ≠ .none ∧ (t.status = 0x05 ∨ t.status = 0x09 ∨ t.status = 0x0D ∨ t.status = 0x11)) ∨
    (t.sat = true ∧ t.status = 0x02) := by
  obtain ⟨herror, hclamp, hplain⟩ := h
  by_cases hcause : t.cause = .none
  · have hsat : t.sat = true := by
      by_contra hns
      exact hplain hcause (Bool.eq_false_of_not_eq_true hns) hres
    exact .inr ⟨hsat, by rw [State.status, hcause, hsat]; rfl⟩
  · have hsat : t.sat = false := (herror hcause).2
    exact .inl ⟨hcause, by rw [State.status, hsat]; exact statusByte_of_error hcause⟩

/-- Settles O4: after reset and after every completed command the result latch is sound, and item 4 follows from that. -/
theorem completedCommandIsSound : Obligations.CompletedCommandIsSound := by
  unfold Obligations.CompletedCommandIsSound
  intro t ht
  have hsound : t.result.sound := by
    rcases ht with rfl | ⟨w, s, hcomplete⟩
    · exact resetResult_sound
    · exact sound_of_completeWord hcomplete
  have hreserved := status_of_reserved_word hsound
  obtain ⟨herror, hclamp, hplain⟩ := hsound
  exact ⟨herror, hclamp, hplain, hreserved⟩

end Sys2Proof.Machine
end

section
/-! The fields and the six values of STATUS (R15, R16). -/

namespace Sys2Proof.Machine

/-- R15: the fields of the status byte, for every pair of values of CAUSE and SAT. -/
theorem statusByte_fields (c : Cause) (sat : Bool) :
    ((statusByte c sat).getLsbD 0 = true ↔ c ≠ .none) ∧ (statusByte c sat).getLsbD 1 = sat ∧
      (statusByte c sat).extractLsb' 2 3 = c.code ∧ (statusByte c sat).extractLsb' 5 3 = 0 := by
  cases c <;> cases sat <;> decide

/-- R15, R17: a sound result latch shows one of six status bytes. -/
theorem status_mem_of_sound {s : State} (h : s.result.sound) :
    s.status ∈ [0x00#8, 0x02#8, 0x05#8, 0x09#8, 0x0D#8, 0x11#8] := by
  obtain ⟨herror, -, -⟩ := h
  by_cases hcause : s.cause = .none
  · rw [State.status, hcause]
    cases s.sat <;> decide
  · have hsat : s.sat = false := (herror hcause).2
    rw [State.status, hsat]
    rcases statusByte_of_error hcause with h | h | h | h <;> simp [h]

/-- R22: the status byte of `executeWord` is reached by completing the word from the reset state. -/
theorem exists_completeWord_status (w : CmdWord) {v : BitVec 8}
    (h : statusByte (executeWord w).cause (executeWord w).sat = v) :
    ∃ (w : CmdWord) (s t : State), completeWord w s = .next t ∧ t.status = v :=
  ⟨w, State.reset, _, completeWord_eq_next_latch w _, h⟩

/-- Settles O11. The six values are reached by `ADD 5.0, 3.0`, `SADD MAX, 1`, `ADD MAX, 1`, `DIV 1.0, 0`, `SQRT -1` and the
reserved opcode byte 0x0C. -/
theorem statusByteFields : Obligations.StatusByteFields := by
  unfold Obligations.StatusByteFields
  refine ⟨fun s => statusByte_fields s.cause s.sat, rfl, fun _ => status_mem_of_sound, ?_⟩
  simp only [List.forall_mem_cons]
  exact ⟨exists_completeWord_status 0x000005000000030000 (by decide),
    exists_completeWord_status 0x087FFFFFFF00000001 (by decide),
    exists_completeWord_status 0x007FFFFFFF00000001 (by decide),
    exists_completeWord_status 0x030001000000000000 (by decide),
    exists_completeWord_status 0x10FFFFFFFF00000000 (by decide),
    exists_completeWord_status 0x0C0000000000000000 (by decide), nofun⟩

end Sys2Proof.Machine
end

section
/-! The outcome of every step, and runs of a given number of cycles (R21, R22, R90). -/

namespace Sys2Proof.Machine

/-- R36: a word that decodes is completed by its instruction. -/
theorem completeWord_of_decode {w : CmdWord} {i : Instr} (h : decode w = .ok i) (s : State) :
    completeWord w s = exec i s := by
  rw [completeWord, h]

/-- R22: the completing step latches `executeWord` of the command in flight. -/
theorem step_complete_latch {s : State} {w : CmdWord} (hr : s.cycle.rst = false) (hf : s.cycle.finish = true)
    (hw : s.inFlight = some w) : step s = .next (s.nextInputs.endFlight.latch (executeWord w)) := by
  rw [step_complete hr hf hw, completeWord_eq_next_latch]

/-- R90: a step always answers a next state, and uses up the inputs of one cycle. -/
theorem exists_step_next (s : State) : ∃ t, step s = .next t ∧ t.inputs = s.inputs.tail := by
  rcases step_cases (s := s) rfl with ⟨-, h⟩ | ⟨-, -, w, -, h⟩ | ⟨-, -, -, h⟩ | ⟨-, -, -, h⟩ | ⟨-, -, -, h⟩
  case inr.inl => exact ⟨_, h.trans (completeWord_eq_next_latch w _), rfl⟩
  all_goals exact ⟨_, h, rfl⟩

/-- A run of `m + n` cycles is a run of `m` and then one of `n`. -/
theorem after_add (m n : Nat) (s : State) : State.after (m + n) s = State.after n (State.after m s) := by
  induction m generalizing s with
  | zero => rw [Nat.zero_add, after_zero]
  | succ m ih =>
    obtain ⟨t, hstep, -⟩ := exists_step_next s
    rw [Nat.add_right_comm, after_succ hstep, after_succ hstep, ih]

/-- Each cycle uses up its own inputs. -/
theorem after_one_inputs (s : State) : (State.after 1 s).inputs = s.inputs.tail := by
  obtain ⟨t, hstep, hinputs⟩ := exists_step_next s
  rw [after_one hstep, hinputs]

theorem Cycle.working_iff (c : Cycle) : c.working = true ↔ c.rst = false ∧ c.finish = false := by
  simp [Cycle.working]

theorem Cycle.finishing_iff (c : Cycle) : c.finishing = true ↔ c.rst = false ∧ c.finish = true := by
  simp [Cycle.finishing]

end Sys2Proof.Machine
end

section
/-! Accepted commands and responses: the ledger of what is owed, over any number of cycles (R25, R102). -/

namespace Sys2Proof.Machine

/-- R21, R25: a command is accepted only while none is in flight. -/
theorem accepts_iff (s : State) :
    s.accepts = true ↔ s.cycle.rst = false ∧ s.inFlight = none ∧ s.cycle.cmdValid = true := by
  simp [State.accepts, State.cmdReady, and_assoc]

theorem accepted_one (s : State) : accepted 1 s = if s.accepts then [s.cycle.cmd] else [] := by
  simp [accepted]

theorem accepted_succ (n : Nat) (s : State) : accepted (n + 1) s = accepted 1 s ++ accepted n (State.after 1 s) := by
  rw [accepted_one, accepted]

theorem accepted_one_of_inFlight {s : State} {w : CmdWord} (hw : s.inFlight = some w) : accepted 1 s = [] := by
  simp [accepted_one, accepts_iff, hw]

/-- Outside reset the port shows the strobe. -/
theorem responses_one {s : State} (hr : s.cycle.rst = false) :
    responses 1 s = if s.rspValid then [s.rsp] else [] := by
  simp [responses, State.rspValidPort, hr]

theorem responses_succ (n : Nat) (s : State) :
    responses (n + 1) s = responses 1 s ++ responses n (State.after 1 s) := by
  simp [responses]

/-- What is owed while a command is in flight: the response the strobe shows, then that of the command. -/
theorem owed_of_inFlight {s : State} {w : CmdWord} (hw : s.inFlight = some w) :
    owed s = (if s.rspValid then [s.rsp] else []) ++ [(executeWord w).response] := by
  rw [owed, hw]

/-- What is owed while no command is in flight: the response the strobe shows. -/
theorem owed_of_idle {s : State} (hw : s.inFlight = none) : owed s = if s.rspValid then [s.rsp] else [] := by
  rw [owed, hw, List.append_nil]

/-- R25, one cycle: what is owed and what is accepted are what is taken and what is then owed. A completion turns the debt of the
command in flight into the strobe's, an accept adds one, and the strobe's debt is taken in its own cycle. -/
theorem ledger_one_cycle {s : State} (hr : s.cycle.rst = false) :
    owed s ++ (accepted 1 s).map (fun w => (executeWord w).response) = responses 1 s ++ owed (State.after 1 s) := by
  rw [responses_one hr]
  cases hw : s.inFlight with
  | some w =>
    have howed : owed (State.after 1 s) = [(executeWord w).response] := by
      cases hf : s.cycle.finish with
      | true =>
        rw [after_one (step_complete_latch hr hf hw), owed_of_idle rfl]
        rfl
      | false =>
        rw [after_one (step_work hr hf hw), owed_of_inFlight (s := s.nextInputs.hold) hw]
        rfl
    rw [owed_of_inFlight hw, accepted_one_of_inFlight hw, howed, List.map_nil, List.append_nil]
  | none =>
    rw [owed_of_idle hw, accepted_one]
    congr 1
    cases hv : s.cycle.cmdValid with
    | true =>
      rw [if_pos ((accepts_iff s).2 ⟨hr, hw, hv⟩), after_one (step_accept hr hw hv), owed_of_inFlight rfl]
      rfl
    | false =>
      have hidle : ¬ s.accepts = true := by simp [accepts_iff, hv]
      rw [if_neg hidle, after_one (step_idle hr hw hv), owed_of_idle (s := s.nextInputs.hold) hw]
      rfl

/-- Without a reset in the inputs, there is none in the current cycle, listed or idle. -/
theorem cycle_rst_of_inputs {s : State} (h : ∀ c ∈ s.inputs, c.rst = false) : s.cycle.rst = false := by
  unfold State.cycle
  cases hin : s.inputs with
  | nil => rfl
  | cons c rest => exact h c (by simp [hin])

/-- R25, any number of cycles. -/
theorem ledger (n : Nat) {s : State} (h : ∀ c ∈ s.inputs, c.rst = false) :
    owed s ++ (accepted n s).map (fun w => (executeWord w).response) = responses n s ++ owed (State.after n s) := by
  induction n generalizing s with
  | zero => simp [accepted, responses]
  | succ n ih =>
    have hrest : ∀ c ∈ (State.after 1 s).inputs, c.rst = false := by
      rw [after_one_inputs]
      exact fun c hc => h c (List.mem_of_mem_tail hc)
    rw [accepted_succ, responses_succ, List.map_append, ← List.append_assoc,
      ledger_one_cycle (cycle_rst_of_inputs h), List.append_assoc, ih hrest, ← List.append_assoc,
      Nat.add_comm n 1, after_add]

/-- Settles O52: an accept needs an empty unit, and the ledger of one cycle adds up over any number of them. -/
theorem responsesInAcceptOrder : Obligations.ResponsesInAcceptOrder := by
  unfold Obligations.ResponsesInAcceptOrder
  refine ⟨fun s haccepts => ?_, fun n s => ledger n⟩
  obtain ⟨-, hempty, -⟩ := (accepts_iff s).1 haccepts
  exact hempty

end Sys2Proof.Machine
end

section
/-! What changes the result latch, and when (R22). -/

namespace Sys2Proof.Machine

/-- R22: a step that neither resets the unit nor completes a command leaves the result latch as it was. -/
theorem step_result_changed {s t : State} (hstep : step s = .next t) (hne : t.result ≠ s.result) :
    s.cycle.rst = true ∨ ((∃ w, s.inFlight = some w) ∧ s.cycle.finishing = true) := by
  rcases step_cases hstep with ⟨hr, -⟩ | ⟨hr, hf, w, hw, -⟩ | ⟨-, -, -, hwork⟩ | ⟨-, -, -, haccept⟩ |
    ⟨-, -, -, hidle⟩
  · exact .inl hr
  · exact .inr ⟨⟨w, hw⟩, s.cycle.finishing_iff.2 ⟨hr, hf⟩⟩
  · cases hwork
    exact absurd rfl hne
  · cases haccept
    exact absurd rfl hne
  · cases hidle
    exact absurd rfl hne

/-- R22: through any number of working cycles the result latch and the command in flight are held. -/
theorem after_working {w : CmdWord} (work : List Cycle) {s : State} {rest : List Cycle} (hw : s.inFlight = some w)
    (hinputs : s.inputs = work ++ rest) (hwork : ∀ d ∈ work, d.working = true) :
    (State.after work.length s).result = s.result ∧ (State.after work.length s).inFlight = some w ∧
      (State.after work.length s).inputs = rest := by
  induction work generalizing s with
  | nil => exact ⟨rfl, hw, hinputs⟩
  | cons d work ih =>
    obtain ⟨hd, hwork⟩ := List.forall_mem_cons.1 hwork
    obtain ⟨hr, hf⟩ := d.working_iff.1 hd
    rw [← State.cycle_cons hinputs] at hr hf
    have htail : s.nextInputs.hold.inputs = work ++ rest := by simp [hinputs]
    rw [List.length_cons, after_succ (step_work hr hf hw)]
    exact ih (s := s.nextInputs.hold) hw htail hwork

/-- R22: the cycle in which the latency ends writes the three elements together. -/
theorem after_one_finishing {s : State} {w : CmdWord} (hw : s.inFlight = some w) (hc : s.cycle.finishing = true) :
    State.after 1 s = s.nextInputs.endFlight.latch (executeWord w) := by
  obtain ⟨hr, hf⟩ := s.cycle.finishing_iff.1 hc
  exact after_one (step_complete_latch hr hf hw)

/-- Settles O47: the first `k` working cycles hold the result latch, and the finishing cycle after all of them writes it. -/
theorem transactionRule : Obligations.TransactionRule := by
  unfold Obligations.TransactionRule
  refine ⟨fun s t => step_result_changed, fun s w work rest c hw hinputs hwork hc => ⟨fun k hk => ?_, ?_⟩⟩
  · have hsplit : s.inputs = work.take k ++ (work.drop k ++ c :: rest) := by
      rw [hinputs, ← List.append_assoc, List.take_append_drop]
    obtain ⟨hresult, hflight, -⟩ := after_working _ hw hsplit fun d hd => hwork d (List.mem_of_mem_take hd)
    rw [List.length_take_of_le hk] at hresult hflight
    exact ⟨congrArg Result.response hresult, hflight⟩
  · obtain ⟨-, hflight, hinputs'⟩ := after_working work hw hinputs hwork
    rw [← State.cycle_cons hinputs'] at hc
    rw [after_add, after_one_finishing hflight hc]
    exact ⟨rfl, rfl, by simp [hinputs']⟩

end Sys2Proof.Machine
end

section
/-! The command handshake and the completion strobe (R21). -/

namespace Sys2Proof.Machine

/-- R21: while a command is in flight, of the inputs of the cycle only `rst` and the end of the latency matter. -/
theorem step_eq_of_inFlight {s t : State} {w : CmdWord} (hw : s.inFlight = some w) (hnext : s.nextInputs = t.nextInputs)
    (hrst : s.cycle.rst = t.cycle.rst) (hfinish : s.cycle.finish = t.cycle.finish) : step s = step t := by
  have hwt : t.inFlight = some w := hw ▸ (congrArg State.inFlight hnext).symm
  cases hr : t.cycle.rst with
  | true => rw [step_reset (hrst.trans hr), step_reset hr, hnext]
  | false =>
    cases hf : t.cycle.finish with
    | true => rw [step_complete (hrst.trans hr) (hfinish.trans hf) hw, step_complete hr hf hwt, hnext]
    | false => rw [step_work (hrst.trans hr) (hfinish.trans hf) hw, step_work hr hf hwt, hnext]

/-- Settles O48: an accepting step, a step that does not look at the offer, an unready unit, an idle step. -/
theorem commandHandshake : Obligations.CommandHandshake := by
  unfold Obligations.CommandHandshake
  refine ⟨fun s hw hr hv => ?_, fun s w c d rest hw => ?_, fun s w hw => ?_, fun s hw hr hv => ?_⟩
  · exact ⟨_, step_accept hr hw hv, rfl, rfl, rfl⟩
  · exact step_eq_of_inFlight (s := { s with inputs := c :: rest }) (t := { s with inputs := d :: rest }) hw rfl
  · have hready : s.cmdReady = false := by simp [State.cmdReady, hw]
    exact ⟨hready, by rw [State.accepts, hready, Bool.false_and]⟩
  · exact ⟨_, step_idle hr hw hv, hw, rfl⟩

/-- Settles O49: of the five kinds of step only the completion raises the strobe, and only there is a command in flight with its
latency ending outside reset. -/
theorem strobeMarksCompletion : Obligations.StrobeMarksCompletion := by
  unfold Obligations.StrobeMarksCompletion
  intro s t hstep
  rw [Cycle.finishing_iff]
  rcases step_cases hstep with ⟨hr, hreset⟩ | ⟨hr, hf, w, hw, hcomplete⟩ | ⟨-, hf, -, hwork⟩ | ⟨-, hw, -, haccept⟩ |
    ⟨-, hw, -, hidle⟩
  · cases hreset
    simp [hr]
  · rw [completeWord_eq_next_latch] at hcomplete
    cases hcomplete
    simp [hr, hf, hw]
  · cases hwork
    simp [hf]
  · cases haccept
    simp [hw]
  · cases hidle
    simp [hw]

end Sys2Proof.Machine
end

section
/-! The frame of a command (R28), and the instruction a completing step runs (R21, R36). -/

namespace Sys2Proof.Machine

/-- Settles O44: instructions and command words alike only latch a result, and the triple of the later command is `executeWord` of
it in either state. -/
theorem instructionFrame : Obligations.InstructionFrame := by
  unfold Obligations.InstructionFrame
  refine ⟨fun i s => ⟨_, exec_eq_deliver i s, s.sameRest_latch _⟩, fun w w' s => ?_⟩
  exact ⟨s.latch (executeWord w), (s.latch (executeWord w)).latch (executeWord w'), s.latch (executeWord w'),
    completeWord_eq_next_latch w s, s.sameRest_latch _, completeWord_eq_next_latch w' _,
    completeWord_eq_next_latch w' s, rfl⟩

/-- What a table word decodes to, its command word decodes to. -/
theorem decode_tableWord {n k : Nat} {i : Instr} (h : decodeTableWord k n = some i) : decode (tableWord k n) = .ok i := by
  rw [decodeTableWord] at h
  cases hd : decode (tableWord k n) with
  | ok j =>
    rw [hd] at h
    cases h
    rfl
  | error e =>
    rw [hd] at h
    cases h

/-- Settles O46: a completing step completes the word in flight by its instruction, and a placed word is in flight with its latency
ending in the next cycle. -/
theorem stepRunsDecodedInstruction : Obligations.StepRunsDecodedInstruction := by
  unfold Obligations.StepRunsDecodedInstruction
  refine ⟨fun s w i hw hr hf hd => ?_, fun s n i hn => ?_⟩
  · rw [step_complete hr hf hw, completeWord_of_decode hd]
    rfl
  · rw [State.withFetchWord, step_complete rfl rfl (s.place_inFlight _), completeWord_of_decode (decode_tableWord hn)]
    rfl

end Sys2Proof.Machine
end

section
/-! Command words and their three fields, and the decoder as the inverse of the encoder (R30, R36). -/

namespace Sys2Proof

/-- R36: the fields of a concatenation are the ones concatenated. -/
@[simp] theorem Command.ofWord_toWord (c : Command) : Command.ofWord c.toWord = c := by
  rw [Command.ofWord, c.toWord_op, c.toWord_a, c.toWord_b]

/-- R36: the three fields of a word cover all of its 72 bits, in order. -/
@[simp] theorem Command.toWord_ofWord (w : CmdWord) : (Command.ofWord w).toWord = w := by
  have hhigh : w.extractLsb' 64 8 ++ w.extractLsb' 32 32 = w.extractLsb' 32 40 :=
    BitVec.extractLsb'_append_extractLsb'_eq_extractLsb' rfl
  have hall : w.extractLsb' 32 40 ++ w.extractLsb' 0 32 = w.extractLsb' 0 72 :=
    BitVec.extractLsb'_append_extractLsb'_eq_extractLsb' rfl
  rw [Command.toWord, Command.ofWord, hhigh, hall, BitVec.extractLsb'_eq_self]

/-- R36: a word is a command's when its fields are the command's. -/
theorem Command.toWord_eq_iff {c : Command} {w : CmdWord} : c.toWord = w ↔ c = Command.ofWord w := by
  constructor
  · rintro rfl
    exact c.ofWord_toWord.symm
  · rintro rfl
    exact Command.toWord_ofWord w

/-- Masking a command word masks its fields. -/
theorem Command.ofWord_and (w v : CmdWord) : Command.ofWord (w &&& v) =
    { op := (Command.ofWord w).op &&& (Command.ofWord v).op, a := (Command.ofWord w).a &&& (Command.ofWord v).a,
      b := (Command.ofWord w).b &&& (Command.ofWord v).b } := by
  simp only [Command.ofWord, BitVec.extractLsb'_and]

/-- R32: every opcode byte the encoder uses is mapped back to its operation, and the operand words are kept. -/
theorem decodeCommand_command (i : Instr) : decodeCommand i.command = .ok i := by
  cases i <;> rfl

/-- R32, R34: the opcode byte of every operation is assigned. -/
theorem Instr.command_wellFormed (i : Instr) : i.command.wellFormed = true := by
  cases i <;> rfl

theorem decode_toWord (c : Command) : decode c.toWord = decodeCommand c := by
  rw [decode, Command.ofWord_toWord]

/-- R36: a word decodes to an instruction when its fields are the instruction's opcode byte and operand words. -/
theorem decode_eq_ok_iff_command {w : CmdWord} {i : Instr} : decode w = .ok i ↔ i.command = Command.ofWord w := by
  constructor
  · intro h
    rcases decodeCommand_cases (Command.ofWord w) with ⟨j, hdecode, hcommand, -⟩ | ⟨hdecode, -⟩
    · cases hdecode.symm.trans h
      exact hcommand
    · cases hdecode.symm.trans h
  · intro h
    rw [decode, ← h, decodeCommand_command]

/-- R36: decoding is the inverse of encoding, on the words that decode. -/
theorem decode_eq_ok_iff {w : CmdWord} {i : Instr} : decode w = .ok i ↔ encode i = w := by
  rw [decode_eq_ok_iff_command, encode, Command.toWord_eq_iff]

/-- Settles O6: both directions of "decoding is the inverse of encoding". -/
theorem decodeEncodeRoundTrip : Obligations.DecodeEncodeRoundTrip := by
  unfold Obligations.DecodeEncodeRoundTrip
  exact ⟨fun _ => decode_eq_ok_iff.2 rfl, fun _ _ => decode_eq_ok_iff.1⟩

/-- Settles O5: the seven words are literals. -/
theorem decodeSampleWords : Obligations.DecodeSampleWords := by
  unfold Obligations.DecodeSampleWords
  decide

end Sys2Proof
end

section
/-! The opcode map as rows of a mnemonic, a mask and a match value (R32). -/

namespace Sys2Proof.Machine

/-- R32: the mask of the opcode map keeps the opcode byte, so that meeting a row's match value is having its opcode byte. -/
theorem and_opcodeMask_eq_iff (w : CmdWord) (op : Opcode) :
    w &&& 0xFF0000000000000000#72 = (Command.mk op 0 0).toWord ↔ (Command.ofWord w).op = op := by
  have hmask : Command.ofWord 0xFF0000000000000000#72 = { op := BitVec.allOnes 8, a := 0, b := 0 } := by decide
  have hfields : Command.ofWord (w &&& 0xFF0000000000000000#72) = { op := (Command.ofWord w).op, a := 0, b := 0 } := by
    rw [Command.ofWord_and, hmask]
    simp only [BitVec.and_allOnes, BitVec.and_zero, BitVec.ofNat_eq_ofNat]
  rw [eq_comm, Command.toWord_eq_iff, hfields, Command.mk.injEq, and_iff_left ⟨rfl, rfl⟩, eq_comm]

/-- R32: the 14 rows differ in the mnemonic and in the opcode byte. -/
theorem mnemonic_eq_iff_opcode_eq (i j : Instr) : i.mnemonic = j.mnemonic ↔ i.opcode = j.opcode := by
  cases i <;> cases j <;> simp [Instr.mnemonic, Instr.opcode]

/-- R32: a word has the opcode byte of an operation when it decodes to an instruction of its mnemonic, which then carries the
word's operand fields. -/
theorem op_eq_iff_decode (w : CmdWord) (j : Instr) :
    (Command.ofWord w).op = j.opcode ↔
      ∃ i, decode w = .ok i ∧ i.mnemonic = j.mnemonic ∧
        i.operandA = w.extractLsb' 32 32 ∧ i.operandB = w.extractLsb' 0 32 := by
  constructor
  · intro hop
    rcases decodeCommand_cases (Command.ofWord w) with ⟨i, hdecode, hcommand, -⟩ | ⟨-, hreserved⟩
    · have hopcode : i.opcode = j.opcode := (congrArg Command.op hcommand).trans hop
      exact ⟨i, hdecode, (mnemonic_eq_iff_opcode_eq i j).2 hopcode, congrArg Command.a hcommand,
        congrArg Command.b hcommand⟩
    · rw [Command.wellFormed, hop] at hreserved
      exact absurd (j.command_wellFormed.symm.trans hreserved) nofun
  · rintro ⟨i, hdecode, hmnemonic, -⟩
    rw [← decode_eq_ok_iff_command.1 hdecode]
    exact (mnemonic_eq_iff_opcode_eq i j).1 hmnemonic

/-- R32: a row of the opcode map. Its match value is the encoding of the row's instruction with zero operands. -/
theorem row_selected_iff (m : Mnemonic) (w : CmdWord) :
    w &&& 0xFF0000000000000000#72 = encode (m.instr 0 0) ↔
      ∃ i, decode w = .ok i ∧ i.mnemonic = (m.instr 0 0).mnemonic ∧
        i.operandA = w.extractLsb' 32 32 ∧ i.operandB = w.extractLsb' 0 32 := by
  have hmatch : encode (m.instr 0 0) = (Command.mk (m.instr 0 0).opcode 0 0).toWord := by cases m <;> rfl
  rw [hmatch, and_opcodeMask_eq_iff, op_eq_iff_decode]

/-- Settles O7: each literal row is the row of its mnemonic. -/
theorem opcodeMapSelectsRow : Obligations.OpcodeMapSelectsRow := by
  unfold Obligations.OpcodeMapSelectsRow
  simp only [List.forall_mem_cons]
  exact ⟨row_selected_iff .add, row_selected_iff .sub, row_selected_iff .mul, row_selected_iff .div,
    row_selected_iff .mod, row_selected_iff .sadd, row_selected_iff .ssub, row_selected_iff .smul,
    row_selected_iff .sdiv, row_selected_iff .sqrt, row_selected_iff .exp, row_selected_iff .log,
    row_selected_iff .log2, row_selected_iff .slog2, nofun⟩

end Sys2Proof.Machine
end

section
/-! What the completion of a command written as its fields latches (R33, R34, R36). -/

namespace Sys2Proof.Machine

/-- R36: completing the word `{op, a, b}` latches `execute` of the three fields. -/
theorem completeWord_toWord (c : Command) (s : State) :
    completeWord c.toWord s = .next (s.latch (execute c.op c.a c.b)) := by
  rw [completeWord_eq_next_latch, executeWord, Command.ofWord_toWord]

/-- R34: a byte outside the opcode map makes a reserved command. -/
theorem wellFormed_eq_false_iff {c : Command} : c.wellFormed = false ↔ c.op ∉ assignedOpcodes := by
  simp [Command.wellFormed]

/-- R34: `execute` of a reserved opcode byte. -/
theorem execute_of_notMem_assignedOpcodes {op : Opcode} (h : op ∉ assignedOpcodes) (a b : Word) :
    execute op a b = illegalResult :=
  execute_of_not_wellFormed (c := ⟨op, a, b⟩) (wellFormed_eq_false_iff.2 h)

/-- Settles O10: the fields and the concatenation are inverse, every completion latches `execute` of the fields, and a
byte off the opcode map is illegal. -/
theorem completionLatchesExecute : Obligations.CompletionLatchesExecute := by
  unfold Obligations.CompletionLatchesExecute
  refine ⟨Command.toWord_ofWord, Command.ofWord_toWord, completeWord_eq_next_latch, fun a b => ?_⟩
  exact ⟨rfl, rfl, rfl, rfl, rfl, rfl, rfl, rfl, rfl, rfl, rfl, rfl, rfl, rfl,
    fun op h => execute_of_notMem_assignedOpcodes h a b⟩

/-- Settles O9: the list of the statement is that of the assigned bytes; the 256 bytes are counted one by one. -/
theorem reservedOpcodeDeliversIllegalOp : Obligations.ReservedOpcodeDeliversIllegalOp := by
  unfold Obligations.ReservedOpcodeDeliversIllegalOp
  refine ⟨fun op a b s h => ?_, by decide +kernel⟩
  rw [completeWord_toWord, execute_of_notMem_assignedOpcodes h]
  rfl

end Sys2Proof.Machine
end

section
/-! Listing lines (R37, N12, N13). -/

namespace Sys2Proof.Machine

section
variable {m : Mnemonic} {prev wa : Word} {a : Operand}

/-- R37: a two-operand mnemonic with both operands. -/
theorem assemble_twoOperand {wb : Word} {b : Operand} (hm : m.usesB = true) (ha : a.word prev = some wa)
    (hb : b.word prev = some wb) : Line.assemble prev (.instr m a (some b)) = some (encode (m.instr wa wb)) := by
  simp [Line.assemble, hm, ha, hb]

/-- R37: a two-operand mnemonic needs its second operand. -/
theorem assemble_twoOperand_missing (hm : m.usesB = true) : Line.assemble prev (.instr m a none) = none := by
  simp [Line.assemble, hm]

/-- R33, R37: a one-operand mnemonic encodes `b` as zero. -/
theorem assemble_oneOperand (hm : m.usesB = false) (ha : a.word prev = some wa) :
    Line.assemble prev (.instr m a none) = some (encode (m.instr wa 0)) := by
  simp [Line.assemble, hm, ha]

/-- R37: a one-operand mnemonic takes no second operand. -/
theorem assemble_oneOperand_extra {b : Operand} (hm : m.usesB = false) :
    Line.assemble prev (.instr m a (some b)) = none := by
  simp [Line.assemble, hm]

end

/-- Settles O53: the four forms of an instruction line; the rule's example has named operands, which need no previous
response. -/
theorem listingAssembles : Obligations.ListingAssembles := by
  unfold Obligations.ListingAssembles
  refine ⟨fun m prev wa wb a b hm ha hb => ?_, fun m prev wa a b hm ha => ?_, fun prev => ?_⟩
  · exact ⟨assemble_twoOperand hm ha hb, assemble_twoOperand_missing hm⟩
  · exact ⟨assemble_oneOperand hm ha, assemble_oneOperand_extra hm⟩
  · exact ⟨rfl, assemble_twoOperand (m := .smul) (wa := maxWord) (wb := twoWord) rfl rfl rfl⟩

end Sys2Proof.Machine
end

section
/-! The operand fields a command uses (R33). -/

namespace Sys2Proof.Machine

/-- R33: `execute` of a one-operand opcode byte is a function of the `a` field alone. -/
theorem execute_oneOperand : ∀ op ∈ [0x10#8, 0x11#8, 0x12#8, 0x13#8, 0x1B#8],
    ∃ f : Word → Result, ∀ a b : Word, execute op a b = f a := by
  simp only [List.forall_mem_cons]
  exact ⟨⟨fSqrt, fun _ _ => rfl⟩, ⟨fExp, fun _ _ => rfl⟩, ⟨fLog, fun _ _ => rfl⟩, ⟨fLog2, fun _ _ => rfl⟩,
    ⟨fSlog2, fun _ _ => rfl⟩, nofun⟩

/-- R32: a command with an assigned opcode byte decodes, whatever its operands. -/
theorem exists_decode_toWord {c : Command} (h : c.wellFormed = true) : ∃ i, decode c.toWord = .ok i := by
  rw [decode_toWord]
  rcases decodeCommand_cases c with ⟨i, hdecode, -⟩ | ⟨-, hreserved⟩
  · exact ⟨i, hdecode⟩
  · exact absurd (h.symm.trans hreserved) nofun

/-- R22: commands with different result words complete differently, from whatever state. -/
theorem completeWord_toWord_ne {c d : Command} (h : (execute c.op c.a c.b).res ≠ (execute d.op d.a d.b).res) (s : State) :
    completeWord c.toWord s ≠ completeWord d.toWord s := by
  rw [completeWord_toWord, completeWord_toWord]
  intro heq
  exact h (congrArg State.res (Host.Outcome.next.inj heq))

/-- R33: the nine two-operand commands use `b`, told by 1.0 with 1.0 and with 2.0, and `a`, told by 1.0 and 2.0 with
3.0. -/
theorem execute_uses_operands : ∀ op ∈ [0x00#8, 0x01#8, 0x02#8, 0x03#8, 0x04#8, 0x08#8, 0x09#8, 0x0A#8, 0x0B#8],
    (execute op oneWord oneWord).res ≠ (execute op oneWord twoWord).res ∧
    (execute op oneWord 0x00030000).res ≠ (execute op twoWord 0x00030000).res := by
  decide

/-- Settles O8: five functions without a second operand, operands that change the result word of the nine others, and the
one-operand line of a listing. -/
theorem oneOperandCommandsIgnoreB : Obligations.OneOperandCommandsIgnoreB := by
  unfold Obligations.OneOperandCommandsIgnoreB
  refine ⟨fun op hop a b b' s => ⟨?_, ?_⟩, fun op hop => ?_, fun m a prev hm => assemble_oneOperand hm rfl⟩
  · obtain ⟨f, hf⟩ := execute_oneOperand op hop
    simp only [completeWord_toWord, hf]
  · have hassigned : ∀ op ∈ [0x10#8, 0x11#8, 0x12#8, 0x13#8, 0x1B#8], assignedOpcodes.contains op = true := by decide
    exact exists_decode_toWord (hassigned op hop)
  · obtain ⟨hb, ha⟩ := execute_uses_operands op hop
    exact ⟨⟨_, _, _, State.reset, completeWord_toWord_ne hb _⟩,
      ⟨_, _, _, State.reset, completeWord_toWord_ne ha _⟩⟩

end Sys2Proof.Machine
end

section
/-! SUB from zero (R38, R42). -/

namespace Sys2Proof.Machine

/-- R12: the negation of every word but the reserved minimum is in range. -/
theorem inrange_neg_signed {a : Word} (h : a ≠ 0x80000000) : inrange (-signed a) := by
  have hne : signed a ≠ signed 0x80000000 := BitVec.toInt_inj.not.2 h
  rw [show signed (0x80000000 : Word) = -2 ^ 31 by decide] at hne
  have hlower := Laws.signed_lower a
  have hupper := Laws.signed_upper a
  constructor <;> omega

/-- R42: SUB from zero delivers the exact negation of its operand. -/
theorem fSub_zero (a : Word) : fSub 0 a = deliverSentinel (-signed a) := by
  rw [fSub, show signed (0 : Word) = 0 from rfl, zero_sub]

/-- Settles O21: the negation is out of range for the minimum alone, and in range it narrows to the word's negation. -/
theorem subFromZeroNegates : Obligations.SubFromZeroNegates := by
  unfold Obligations.SubFromZeroNegates
  refine fun a s => ⟨s.latch (fSub 0 a), rfl, fun h => ?_, fun h => ?_⟩
  · have hword : wrap32 (-signed a) = -a := by rw [wrap32, BitVec.ofInt_neg, BitVec.ofInt_toInt]
    rw [fSub_zero, deliverSentinel_inrange (inrange_neg_signed h), hword]
    exact ⟨rfl, rfl⟩
  · have hoverflow : ¬ inrange (-signed (0x80000000 : Word)) := by decide
    rw [fSub_zero, h, deliverSentinel_overflow hoverflow]
    exact ⟨rfl, rfl⟩

end Sys2Proof.Machine
end

section
/-! The response word (R35). -/

namespace Sys2Proof.Machine

/-- Settles O12: the two halves of the concatenation. -/
theorem responseWordFields : Obligations.ResponseWordFields := by
  unfold Obligations.ResponseWordFields
  exact fun s => ⟨BitVec.extractLsb'_append_eq_left, BitVec.extractLsb'_append_eq_right⟩

end Sys2Proof.Machine
end

section
/-! The sentinel policy as rules (R40), and ADD and SUB (R41, R42). -/

namespace Sys2Proof.Machine

/-- R40: neither outcome of the sentinel policy is a clamp. -/
@[simp] theorem deliverSentinel_sat (n : Int) : (deliverSentinel n).sat = false := by
  rcases deliverSentinel_cases n with ⟨-, heq⟩ | ⟨-, heq⟩ <;> rw [heq]
  · exact plainResult_sat _
  · exact errorResult_sat _

/-- R40: in range, the delivered word reads as the exact result. -/
theorem deliverSentinel_exact {n : Int} (h : inrange n) :
    signed (deliverSentinel n).res = n ∧ (deliverSentinel n).cause = .none := by
  rw [deliverSentinel_inrange h]
  exact ⟨signed_wrap32_inrange h, rfl⟩

/-- R12: out of range means beyond one of the two ends of the format. -/
theorem not_inrange_iff {n : Int} : ¬ inrange n ↔ n ≥ 2 ^ 31 ∨ n ≤ -2 ^ 31 := by
  unfold inrange
  omega

/-- R40: out of range, the sentinel with OVERFLOW. -/
theorem deliverSentinel_outside {n : Int} (h : n ≥ 2 ^ 31 ∨ n ≤ -2 ^ 31) :
    (deliverSentinel n).res = 0x80000000 ∧ (deliverSentinel n).cause = .overflow := by
  rw [deliverSentinel_overflow (not_inrange_iff.2 h)]
  exact ⟨rfl, rfl⟩

/-- Settles O13: ADD delivers the exact sum by the sentinel policy. -/
theorem addResult : Obligations.AddResult := by
  unfold Obligations.AddResult
  exact fun a b s => ⟨(Laws.EncodedFields.add a b).1, s.latch (fAdd a b), rfl, s.sameRest_latch _,
    deliverSentinel_sat _, deliverSentinel_exact, deliverSentinel_outside⟩

/-- Settles O14: SUB delivers the exact difference by the sentinel policy. -/
theorem subResult : Obligations.SubResult := by
  unfold Obligations.SubResult
  exact fun a b s => ⟨(Laws.EncodedFields.sub a b).1, s.latch (fSub a b), rfl, s.sameRest_latch _,
    deliverSentinel_sat _, deliverSentinel_exact, deliverSentinel_outside⟩

end Sys2Proof.Machine
end

section
/-! The rounding of a product (R43) and MUL (R44). -/

namespace Sys2Proof.Machine

theorem rnd16_of_nonneg {p : Int} (h : 0 ≤ p) : rnd16 p = (p + 0x8000) / 65536 := by
  rw [rnd16, if_pos h, Laws.shr_sixteen]

theorem rnd16_of_neg {p : Int} (h : p < 0) : rnd16 p = -((-p + 0x8000) / 65536) := by
  rw [rnd16, if_neg (not_le.2 h), Laws.shr_sixteen]

/-- R43: half a unit added to the magnitude, then cut, with the sign of the product. -/
theorem rnd16_eq_sign_mul (p : Int) : rnd16 p = p.sign * ((|p| + 0x8000) / 65536) := by
  rcases lt_trichotomy p 0 with h | rfl | h
  · rw [rnd16_of_neg h, abs_of_neg h, Int.sign_eq_neg_one_of_neg h, neg_one_mul]
  · rfl
  · rw [rnd16_of_nonneg h.le, abs_of_pos h, Int.sign_eq_one_of_pos h, one_mul]

/-- R43: the form without a negation. -/
theorem rnd16_eq_floor (p : Int) : rnd16 p = (p + 0x8000 - (if p < 0 then 1 else 0)) / 65536 := by
  by_cases h : p < 0
  · rw [rnd16_of_neg h, if_pos h]
    omega
  · rw [rnd16_of_nonneg (not_lt.1 h), if_neg h, sub_zero]

/-- Settles O15: distance and tie are read off the form without a negation, oddness off the form with the magnitude. -/
theorem productRounding : Obligations.ProductRounding := by
  unfold Obligations.ProductRounding
  intro p
  refine ⟨?_, ?_, ?_⟩
  · rw [rnd16_eq_floor, Int.abs_eq_natAbs]
    omega
  · rw [rnd16_eq_floor]
    simp only [Int.abs_eq_natAbs]
    omega
  · rw [rnd16_eq_sign_mul, rnd16_eq_sign_mul p, Int.sign_neg, abs_neg, neg_mul]

/-- Settles O16: MUL delivers the rounded product by the sentinel policy, which tests it after the rounding. -/
theorem mulResult : Obligations.MulResult := by
  unfold Obligations.MulResult
  intro a b p q s hp hq
  rw [← rnd16_eq_sign_mul] at hq
  subst hp hq
  refine ⟨(Laws.EncodedFields.mul a b).1, s.latch (fMul a b), rfl, s.sameRest_latch _,
    deliverSentinel_sat _, deliverSentinel_exact, deliverSentinel_outside, ?_⟩
  rintro ⟨hlower, hupper⟩
  have hround : rnd16 (signed a * signed b) = 2 ^ 31 := by
    rw [rnd16_of_nonneg (by omega)]
    omega
  exact ⟨by omega, hround, (deliverSentinel_outside (.inl hround.ge)).2⟩

end Sys2Proof.Machine
end

section
/-! The truncating division (R45), and DIV and MOD (R46, R47). -/

namespace Sys2Proof.Machine

/-- R45: what the truncating division leaves over. -/
theorem sub_tdiv_mul_eq_tmod (n : Int) {d : Int} (hd : d ≠ 0) : n - tdiv n d * d = n.tmod d := by
  rw [tdiv_eq_tdiv n d hd, Int.tmod_def, mul_comm]

/-- R45: the rest is smaller in magnitude than the divisor. -/
theorem abs_sub_tdiv_mul_lt (n : Int) {d : Int} (hd : d ≠ 0) : |n - tdiv n d * d| < |d| := by
  rw [sub_tdiv_mul_eq_tmod n hd, Int.abs_eq_natAbs, Int.abs_eq_natAbs, Int.natAbs_tmod]
  exact_mod_cast Nat.mod_lt n.natAbs (Int.natAbs_pos.2 hd)

/-- R45: the rest is zero or has the sign of the dividend. -/
theorem sign_sub_tdiv_mul (n : Int) {d : Int} (hd : d ≠ 0) :
    n - tdiv n d * d = 0 ∨ (n - tdiv n d * d).sign = n.sign := by
  rw [sub_tdiv_mul_eq_tmod n hd]
  by_cases hdvd : d ∣ n
  · exact .inl (Int.tmod_eq_zero_of_dvd hdvd)
  · exact .inr (by rw [Int.sign_tmod, if_neg hdvd])

/-- R45: the magnitude is only cut, never raised. -/
theorem abs_tdiv_mul_le (n : Int) {d : Int} (hd : d ≠ 0) : |tdiv n d * d| ≤ |n| := by
  rw [tdiv_eq_tdiv n d hd, Int.abs_eq_natAbs, Int.abs_eq_natAbs, Int.natAbs_mul, Int.natAbs_tdiv]
  exact_mod_cast Nat.div_mul_le_self n.natAbs d.natAbs

/-- R45: the rule's own text, with the magnitudes divided as integers. -/
theorem tdiv_eq_abs_ediv (n d : Int) : tdiv n d = if (n ≥ 0 ↔ d > 0) then |n| / |d| else -(|n| / |d|) := by
  rw [tdiv, Int.natCast_ediv, ← Int.abs_eq_natAbs, ← Int.abs_eq_natAbs]

/-- Settles O18: the truncating division cuts magnitudes, and its rest is the library's `Int.tmod`. -/
theorem truncatingDivision : Obligations.TruncatingDivision := by
  unfold Obligations.TruncatingDivision
  exact fun n d hd => ⟨abs_tdiv_mul_le n hd, abs_sub_tdiv_mul_lt n hd, sign_sub_tdiv_mul n hd, tdiv_eq_abs_ediv n d⟩

theorem signed_ne_zero {b : Word} (h : b ≠ 0) : signed b ≠ 0 := (Laws.signed_eq_zero_iff b).not.2 h

theorem fDiv_zero (a : Word) : fDiv a 0 = errorResult .divzero := if_pos rfl

theorem fDiv_of_ne_zero (a : Word) {b : Word} (h : b ≠ 0) :
    fDiv a b = deliverSentinel (tdiv (signed a * 65536) (signed b)) := by
  rw [fDiv, if_neg (signed_ne_zero h), Laws.shl_sixteen]

theorem fMod_zero (a : Word) : fMod a 0 = errorResult .divzero := if_pos rfl

theorem fMod_of_ne_zero (a : Word) {b : Word} (h : b ≠ 0) :
    fMod a b = plainResult (wrap32 (signed a - tdiv (signed a) (signed b) * signed b)) :=
  if_neg (signed_ne_zero h)

/-- Settles O19: for a divisor other than zero the sentinel policy delivers the truncated quotient of the shifted dividend, and
the shift keeps the dividend's sign. -/
theorem divResult : Obligations.DivResult := by
  unfold Obligations.DivResult
  refine fun a b s => ⟨(Laws.EncodedFields.div a b).1, s.latch (fDiv a b), rfl, s.sameRest_latch _, ?_⟩
  by_cases hb : b = 0
  · rw [hb, fDiv_zero]
    exact ⟨rfl, fun _ => ⟨rfl, rfl⟩, fun h => absurd rfl h⟩
  · have hsign : (signed a * 65536).sign = (signed a).sign := by rw [Int.sign_mul]; exact mul_one _
    have hrest := sign_sub_tdiv_mul (signed a * 65536) (signed_ne_zero hb)
    rw [hsign] at hrest
    rw [fDiv_of_ne_zero a hb]
    exact ⟨deliverSentinel_sat _, fun h => absurd h hb, fun _ => ⟨_, _, (add_sub_cancel _ _).symm,
      abs_sub_tdiv_mul_lt _ (signed_ne_zero hb), hrest, deliverSentinel_exact, deliverSentinel_outside⟩⟩

/-- Settles O20: for a divisor other than zero the remainder is in range, so the narrowing keeps it. -/
theorem modResult : Obligations.ModResult := by
  unfold Obligations.ModResult
  refine fun a b s => ⟨(Laws.EncodedFields.mod a b).1, s.latch (fMod a b), rfl, s.sameRest_latch _, ?_⟩
  by_cases hb : b = 0
  · rw [hb, fMod_zero]
    exact ⟨rfl, fun _ => ⟨rfl, rfl⟩, fun h => absurd rfl h⟩
  · have hrange := inrange_remainder a b (signed_ne_zero hb)
    rw [fMod_of_ne_zero a hb]
    refine ⟨rfl, fun h => absurd h hb, fun _ => ⟨rfl, wrap32_ne_reserved hrange, tdiv (signed a) (signed b), ?_⟩⟩
    rw [State.latch_res, plainResult_res, signed_wrap32_inrange hrange]
    exact ⟨(add_sub_cancel _ _).symm, abs_sub_tdiv_mul_lt _ (signed_ne_zero hb), sign_sub_tdiv_mul _ (signed_ne_zero hb)⟩

end Sys2Proof.Machine
end

section
/-! The bit tests that stand for the range tests (R41, R42, R44). -/

namespace Sys2Proof.Machine

/-- R40, R41: OVERFLOW is the cause exactly out of range. -/
theorem deliverSentinel_cause_eq_overflow_iff (n : Int) : (deliverSentinel n).cause = .overflow ↔ ¬ inrange n := by
  rcases deliverSentinel_cases n with ⟨h, heq⟩ | ⟨h, heq⟩ <;> rw [heq]
  · exact ⟨nofun, fun hn => absurd h hn⟩
  · exact ⟨fun _ => h, fun _ => rfl⟩

/-- The sign of a sum or difference narrowed to 32 bits: one wrap is all it can take. -/
theorem signed_wrap32_neg_iff {n : Int} (hlower : -2 ^ 32 ≤ n) (hupper : n < 2 ^ 32) :
    signed (wrap32 n) < 0 ↔ -2 ^ 31 ≤ n ∧ n < 0 ∨ 2 ^ 31 ≤ n := by
  rw [signed, wrap32, BitVec.toInt_ofInt, Int.bmod_def]
  omega

/-- The reserved word of a sum or difference narrowed to 32 bits. -/
theorem wrap32_eq_sentWord_iff {n : Int} (hlower : -2 ^ 32 ≤ n) (hupper : n < 2 ^ 32) :
    wrap32 n = sentWord ↔ n = -2 ^ 31 ∨ n = 2 ^ 31 := by
  rw [← BitVec.toInt_inj, BitVec.toInt_ofInt, show sentWord.toInt = -2 ^ 31 by decide, Int.bmod_def]
  omega

/-- N3: bit 31 is the sign of the signed reading. -/
theorem msb_eq_iff (v w : Word) : v.msb = w.msb ↔ (signed v < 0 ↔ signed w < 0) := by
  rw [BitVec.msb_eq_toInt, BitVec.msb_eq_toInt, decide_eq_decide]

theorem signed_bounds (w : Word) : -2 ^ 31 ≤ signed w ∧ signed w ≤ 2 ^ 31 - 1 :=
  ⟨Laws.signed_lower w, Laws.signed_upper w⟩

/-- R41: the sign test of a sum fires exactly when the exact sum is outside the 32-bit range. -/
theorem addSignTest_iff (a b : Word) :
    a.msb = b.msb ∧ (wrap32 (signed a + signed b)).msb ≠ a.msb ↔
      ¬ (-2 ^ 31 ≤ signed a + signed b ∧ signed a + signed b ≤ 2 ^ 31 - 1) := by
  have ha := signed_bounds a
  have hb := signed_bounds b
  rw [Ne, msb_eq_iff, msb_eq_iff, signed_wrap32_neg_iff (by omega) (by omega)]
  omega

/-- R42: the sign test of a difference fires exactly when the exact difference is outside the 32-bit range. -/
theorem subSignTest_iff (a b : Word) :
    a.msb ≠ b.msb ∧ (wrap32 (signed a - signed b)).msb ≠ a.msb ↔
      ¬ (-2 ^ 31 ≤ signed a - signed b ∧ signed a - signed b ≤ 2 ^ 31 - 1) := by
  have ha := signed_bounds a
  have hb := signed_bounds b
  rw [Ne, Ne, msb_eq_iff, msb_eq_iff, signed_wrap32_neg_iff (by omega) (by omega)]
  omega

/-- R12: the carve-out. Out of range is outside the 32-bit range, or narrowed to the reserved word. -/
theorem not_inrange_iff_sentWord {n : Int} (hlower : -2 ^ 32 ≤ n) (hupper : n < 2 ^ 32) :
    ¬ inrange n ↔ ¬ (-2 ^ 31 ≤ n ∧ n ≤ 2 ^ 31 - 1) ∨ wrap32 n = sentWord := by
  rw [wrap32_eq_sentWord_iff hlower hupper, not_inrange_iff]
  omega

theorem wrap32_add (a b : Word) : wrap32 (signed a + signed b) = a + b := by
  rw [wrap32, BitVec.ofInt_add, BitVec.ofInt_toInt, BitVec.ofInt_toInt]

theorem wrap32_sub (a b : Word) : wrap32 (signed a - signed b) = a - b := by
  rw [wrap32, sub_eq_add_neg, BitVec.ofInt_add, BitVec.ofInt_neg, BitVec.ofInt_toInt, BitVec.ofInt_toInt,
    BitVec.sub_eq_add_neg]

/-- R41: the detector of ADD fires exactly when the exact sum is out of range. -/
theorem addDetector_iff (a b : Word) : addDetector a b = true ↔ ¬ inrange (signed a + signed b) := by
  have ha := signed_bounds a
  have hb := signed_bounds b
  rw [not_inrange_iff_sentWord (by omega) (by omega), ← addSignTest_iff, wrap32_add]
  simp only [addDetector, addSignOverflow, Bool.or_eq_true, Bool.and_eq_true, beq_iff_eq, bne_iff_ne]

/-- R42: the detector of SUB fires exactly when the exact difference is out of range. -/
theorem subDetector_iff (a b : Word) : subDetector a b = true ↔ ¬ inrange (signed a - signed b) := by
  have ha := signed_bounds a
  have hb := signed_bounds b
  rw [not_inrange_iff_sentWord (by omega) (by omega), ← subSignTest_iff, wrap32_sub]
  simp only [subDetector, subSignOverflow, Bool.or_eq_true, Bool.and_eq_true, beq_iff_eq, bne_iff_ne]

/-- N1, N6: the top bits of a two's complement number are those of the shifted number. -/
theorem extractLsb'_ofInt_top (lo len : Nat) (n : Int) :
    (BitVec.ofInt (lo + len) n).extractLsb' lo len = BitVec.ofInt len (n / 2 ^ lo) := by
  have hlo : (2 : Int) ^ lo ≠ 0 := by positivity
  have hmod : n % 2 ^ (lo + len) / 2 ^ lo = n / 2 ^ lo % 2 ^ len := by
    rw [pow_add, Int.emod_def, mul_assoc, Int.sub_mul_ediv_left _ _ hlo, ← Int.ediv_ediv_of_nonneg (by positivity),
      ← Int.emod_def]
  apply BitVec.eq_of_toNat_eq
  rw [BitVec.extractLsb'_toNat, BitVec.toNat_ofInt, BitVec.toNat_ofInt, Nat.shiftRight_eq_div_pow]
  zify
  rw [Int.toNat_of_nonneg (Int.emod_nonneg _ (by positivity)), Int.toNat_of_nonneg (Int.emod_nonneg _ (by positivity))]
  rw [hmod, Int.emod_emod]

/-- R44: 17 top bits are all equal exactly when the number shifted down to them is 0 or -1. -/
theorem top17_uniform_iff (lo : Nat) {n : Int} (hlower : -2 ^ 16 ≤ n / 2 ^ lo) (hupper : n / 2 ^ lo < 2 ^ 16) :
    (BitVec.ofInt (lo + 17) n).extractLsb' lo 17 = 0 ∨
      (BitVec.ofInt (lo + 17) n).extractLsb' lo 17 = BitVec.allOnes 17 ↔ n / 2 ^ lo = 0 ∨ n / 2 ^ lo = -1 := by
  rw [extractLsb'_ofInt_top, ← BitVec.toInt_inj, ← BitVec.toInt_inj,
    BitVec.toInt_ofInt_eq_self (by decide) hlower hupper]
  rfl

theorem abs_signed_le (w : Word) : |signed w| ≤ 2 ^ 31 := by
  have hw := signed_bounds w
  exact abs_le.2 (by omega)

/-- The exact product of two words fits in 63 bits. -/
theorem abs_signed_mul_le (a b : Word) : |signed a * signed b| ≤ 2 ^ 62 := by
  calc |signed a * signed b| = |signed a| * |signed b| := abs_mul _ _
    _ ≤ 2 ^ 31 * 2 ^ 31 := mul_le_mul (abs_signed_le a) (abs_signed_le b) (abs_nonneg _) (by norm_num)
    _ = 2 ^ 62 := by norm_num

/-- R44: so the rounded product is a 48-bit signed value. -/
theorem rnd16_signed_mul_bounds (a b : Word) :
    -2 ^ 47 ≤ rnd16 (signed a * signed b) ∧ rnd16 (signed a * signed b) < 2 ^ 47 := by
  have hp := abs_le.1 (abs_signed_mul_le a b)
  rw [rnd16_eq_floor]
  omega

/-- R44: the 48-bit detector fires exactly when the number it is given is out of range. -/
theorem mulDetector_iff {q : Int} (hlower : -2 ^ 47 ≤ q) (hupper : q < 2 ^ 47) :
    mulDetector (BitVec.ofInt 48 q) = true ↔ ¬ inrange q := by
  have htop := top17_uniform_iff 31 (n := q) (by omega) (by omega)
  have hmin : BitVec.ofInt 48 q = BitVec.ofInt 48 (-2 ^ 31) ↔ q = -2 ^ 31 := by
    rw [← BitVec.toInt_inj, BitVec.toInt_ofInt_eq_self (by decide) hlower hupper]
    rfl
  simp only [mulDetector, Bool.or_eq_true, Bool.and_eq_true, beq_iff_eq, bne_iff_ne, hmin, ne_eq, ← not_or, htop]
  rw [not_inrange_iff]
  omega

/-- Settles O17: each detector fires exactly out of range, where the sentinel policy reports OVERFLOW. -/
theorem overflowBitTests : Obligations.OverflowBitTests := by
  unfold Obligations.OverflowBitTests
  refine ⟨fun a b s t h => ⟨addSignTest_iff a b, ?_⟩, fun a b s t h => ⟨subSignTest_iff a b, ?_⟩,
    fun a b s t h => ?_, rnd16_eq_floor⟩
  · obtain rfl := exec_eq_next.1 h
    exact (deliverSentinel_cause_eq_overflow_iff _).trans (addDetector_iff a b).symm
  · obtain rfl := exec_eq_next.1 h
    exact (deliverSentinel_cause_eq_overflow_iff _).trans (subDetector_iff a b).symm
  · obtain rfl := exec_eq_next.1 h
    obtain ⟨hlower, hupper⟩ := rnd16_signed_mul_bounds a b
    have hproduct := abs_le.1 (abs_signed_mul_le a b)
    exact ⟨(deliverSentinel_cause_eq_overflow_iff _).trans (mulDetector_iff hlower hupper).symm,
      (top17_uniform_iff 47 (by omega) (by omega)).trans (by omega)⟩

end Sys2Proof.Machine
end

section
/-! The clamp policy as rules (R60), and SADD, SSUB, SMUL and SDIV (R61 to R64). -/

namespace Sys2Proof.Machine

/-- R60: no outcome of the clamp policy is an error. -/
@[simp] theorem deliverClamp_cause (n : Int) : (deliverClamp n).cause = .none := by
  rcases deliverClamp_cases n with ⟨-, heq⟩ | ⟨-, heq⟩ | ⟨-, heq⟩ <;> rw [heq]
  · exact plainResult_cause _
  · exact clampResult_cause _
  · exact clampResult_cause _

/-- R60: in range, the delivered word reads as the exact result. -/
theorem deliverClamp_exact {n : Int} (h : inrange n) : signed (deliverClamp n).res = n ∧ (deliverClamp n).sat = false := by
  rw [deliverClamp_inrange h]
  exact ⟨signed_wrap32_inrange h, rfl⟩

/-- R60: beyond the upper end, MAX. -/
theorem deliverClamp_above {n : Int} (h : n ≥ 2 ^ 31) :
    (deliverClamp n).res = 0x7FFFFFFF ∧ (deliverClamp n).sat = true := by
  rw [deliverClamp_positive (not_inrange_iff.2 (.inl h)) (by omega)]
  exact ⟨rfl, rfl⟩

/-- R60: at or beyond the carved-out minimum, MIN. -/
theorem deliverClamp_below {n : Int} (h : n ≤ -2 ^ 31) :
    (deliverClamp n).res = 0x80000000 ∧ (deliverClamp n).sat = true := by
  rw [deliverClamp_negative (not_inrange_iff.2 (.inr h)) (by omega)]
  exact ⟨rfl, rfl⟩

/-- R60: SAT is set exactly out of range. -/
theorem deliverClamp_sat_iff (n : Int) : (deliverClamp n).sat = true ↔ ¬ inrange n := by
  constructor
  · intro hsat hrange
    rw [(deliverClamp_exact hrange).2] at hsat
    cases hsat
  · intro hout
    rcases not_inrange_iff.1 hout with habove | hbelow
    · exact (deliverClamp_above habove).2
    · exact (deliverClamp_below hbelow).2

/-- R65: the clamp policy clamps exactly where the sentinel policy reports OVERFLOW. -/
theorem deliverClamp_sat_iff_overflow (n : Int) : (deliverClamp n).sat = true ↔ (deliverSentinel n).cause = .overflow :=
  (deliverClamp_sat_iff n).trans (deliverSentinel_cause_eq_overflow_iff n).symm

/-- Settles O22: SADD delivers the exact sum by the clamp policy, ADD the same sum by the sentinel policy. -/
theorem saddResult : Obligations.SaddResult := by
  unfold Obligations.SaddResult
  exact fun a b s => ⟨(Laws.EncodedFields.sadd a b).1, s.latch (fSadd a b), s.latch (fAdd a b), rfl, rfl,
    s.sameRest_latch _, deliverClamp_cause _, deliverClamp_exact, deliverClamp_above, deliverClamp_below,
    deliverClamp_sat_iff_overflow _⟩

/-- Settles O23: SSUB delivers the exact difference by the clamp policy, SUB the same one by the sentinel policy. -/
theorem ssubResult : Obligations.SsubResult := by
  unfold Obligations.SsubResult
  exact fun a b s => ⟨(Laws.EncodedFields.ssub a b).1, s.latch (fSsub a b), s.latch (fSub a b), rfl, rfl,
    s.sameRest_latch _, deliverClamp_cause _, deliverClamp_exact, deliverClamp_above, deliverClamp_below,
    deliverClamp_sat_iff_overflow _⟩

/-- Settles O24: SMUL delivers the rounded product by the clamp policy, MUL the same one by the sentinel policy. -/
theorem smulResult : Obligations.SmulResult := by
  unfold Obligations.SmulResult
  intro a b p q s hp hq
  rw [← rnd16_eq_sign_mul] at hq
  subst hp hq
  exact ⟨(Laws.EncodedFields.smul a b).1, s.latch (fSmul a b), s.latch (fMul a b), rfl, rfl, s.sameRest_latch _,
    deliverClamp_cause _, deliverClamp_exact, deliverClamp_above, deliverClamp_below, deliverClamp_sat_iff_overflow _⟩

theorem fSdiv_zero (a : Word) : fSdiv a 0 = errorResult .divzero := if_pos rfl

theorem fSdiv_of_ne_zero (a : Word) {b : Word} (h : b ≠ 0) :
    fSdiv a b = deliverClamp (tdiv (signed a * 65536) (signed b)) := by
  rw [fSdiv, if_neg (signed_ne_zero h), Laws.shl_sixteen]

/-- R46, R64: shifting the dividend keeps its sign, so the rest of the quotient is zero or has the sign of `a`. -/
theorem sign_shifted_rest (a : Word) {b : Word} (h : b ≠ 0) :
    signed a * 65536 - tdiv (signed a * 65536) (signed b) * signed b = 0 ∨
      (signed a * 65536 - tdiv (signed a * 65536) (signed b) * signed b).sign = (signed a).sign := by
  have hsign : (signed a * 65536).sign = (signed a).sign := by rw [Int.sign_mul]; exact mul_one _
  rw [← hsign]
  exact sign_sub_tdiv_mul _ (signed_ne_zero h)

/-- Settles O25: a zero divisor is DIVZERO of both commands; for every other divisor SDIV delivers the truncated quotient by the
clamp policy, DIV the same one by the sentinel policy. -/
theorem sdivResult : Obligations.SdivResult := by
  unfold Obligations.SdivResult
  refine fun a b s => ⟨(Laws.EncodedFields.sdiv a b).1, s.latch (fSdiv a b), s.latch (fDiv a b), rfl, rfl,
    s.sameRest_latch _, ?_⟩
  by_cases hb : b = 0
  · rw [hb, fSdiv_zero]
    exact ⟨fun _ => ⟨rfl, rfl, rfl⟩, fun h => absurd rfl h, nofun, fun h => absurd rfl h.1⟩
  · rw [fSdiv_of_ne_zero a hb, fDiv_of_ne_zero a hb]
    refine ⟨fun h => absurd h hb, fun _ => ⟨deliverClamp_cause _, _, _, (add_sub_cancel _ _).symm,
      abs_sub_tdiv_mul_lt _ (signed_ne_zero hb), sign_shifted_rest a hb, deliverClamp_exact, deliverClamp_above,
      deliverClamp_below⟩, ?_⟩
    exact (deliverClamp_sat_iff_overflow _).trans (and_iff_right hb).symm

end Sys2Proof.Machine
end

section
/-! The boundary a clamp delivers, told from the operands' signs (R61 to R64). -/

namespace Sys2Proof.Machine

/-- R60: a clamp is MAX beyond the upper end and MIN beyond the lower one. -/
theorem deliverClamp_of_sat {n : Int} (h : (deliverClamp n).sat = true) :
    (n ≥ 2 ^ 31 ∧ (deliverClamp n).res = 0x7FFFFFFF) ∨ (n ≤ -2 ^ 31 ∧ (deliverClamp n).res = 0x80000000) := by
  rcases not_inrange_iff.1 ((deliverClamp_sat_iff n).1 h) with habove | hbelow
  · exact .inl ⟨habove, (deliverClamp_above habove).1⟩
  · exact .inr ⟨hbelow, (deliverClamp_below hbelow).1⟩

/-- R60: a condition that holds of the positive exact results and not of the negative ones tells the boundary. -/
theorem deliverClamp_res_of_sat {n : Int} {p : Prop} [Decidable p] (hpos : 2 ^ 31 ≤ n → p) (hneg : n ≤ -2 ^ 31 → ¬ p)
    (h : (deliverClamp n).sat = true) : (deliverClamp n).res = if p then 0x7FFFFFFF else 0x80000000 := by
  rcases deliverClamp_of_sat h with ⟨habove, hres⟩ | ⟨hbelow, hres⟩
  · rw [hres, if_pos (hpos habove)]
  · rw [hres, if_neg (hneg hbelow)]

/-- R12: the reserved word is the one that reads as the format's lower end. -/
theorem eq_reserved_iff (w : Word) : w = 0x80000000 ↔ signed w = -2 ^ 31 := BitVec.toInt_inj.symm

/-- R61: with the reserved word carved out, a sum can leave the range downwards with an operand of zero. -/
theorem fSadd_of_sat {a b : Word} (h : (fSadd a b).sat = true) :
    (0 ≤ signed a ∧ 0 ≤ signed b ∧ (fSadd a b).res = 0x7FFFFFFF) ∨
    (signed a < 0 ∧ signed b < 0 ∧ (fSadd a b).res = 0x80000000) ∨
    (((a = 0x80000000 ∧ b = 0) ∨ (a = 0 ∧ b = 0x80000000)) ∧ (fSadd a b).res = 0x80000000) := by
  have ha := signed_bounds a
  have hb := signed_bounds b
  rcases deliverClamp_of_sat h with ⟨habove, hres⟩ | ⟨hbelow, hres⟩
  · exact .inl ⟨by omega, by omega, hres⟩
  · rw [eq_reserved_iff a, eq_reserved_iff b, ← Laws.signed_eq_zero_iff a, ← Laws.signed_eq_zero_iff b]
    refine .inr ?_
    by_cases hneg : signed a < 0 ∧ signed b < 0
    · exact .inl ⟨hneg.1, hneg.2, hres⟩
    · exact .inr ⟨by omega, hres⟩

theorem fSsub_of_sat {a b : Word} (h : (fSsub a b).sat = true) :
    (fSsub a b).res = if 0 ≤ signed a then 0x7FFFFFFF else 0x80000000 := by
  have ha := signed_bounds a
  have hb := signed_bounds b
  exact deliverClamp_res_of_sat (by omega) (by omega) h

/-- R43: the rounding may reach zero but never crosses it. -/
theorem pos_of_rnd16_pos {p : Int} (h : 0 < rnd16 p) : 0 < p := by
  rw [rnd16_eq_floor] at h
  omega

theorem neg_of_rnd16_neg {p : Int} (h : rnd16 p < 0) : p < 0 := by
  rw [rnd16_eq_floor] at h
  omega

theorem fSmul_of_sat {a b : Word} (h : (fSmul a b).sat = true) :
    (fSmul a b).res = if (signed a < 0 ↔ signed b < 0) then 0x7FFFFFFF else 0x80000000 := by
  refine deliverClamp_res_of_sat (fun habove => ?_) (fun hbelow => ?_) h
  · have hproduct := mul_pos_iff.1 (pos_of_rnd16_pos (by omega : 0 < rnd16 (signed a * signed b)))
    omega
  · have hproduct := mul_neg_iff.1 (neg_of_rnd16_neg (by omega : rnd16 (signed a * signed b) < 0))
    omega

/-- R45: a positive quotient has operands of equal sign. -/
theorem signs_eq_of_tdiv_pos {n d : Int} (h : 0 < tdiv n d) : n ≥ 0 ↔ d > 0 := by
  by_contra hsigns
  have hquotient := Int.ediv_nonneg (abs_nonneg n) (abs_nonneg d)
  rw [tdiv_eq_abs_ediv, if_neg hsigns] at h
  omega

/-- R45: a negative quotient has operands of different sign. -/
theorem signs_ne_of_tdiv_neg {n d : Int} (h : tdiv n d < 0) : ¬ (n ≥ 0 ↔ d > 0) := by
  intro hsigns
  have hquotient := Int.ediv_nonneg (abs_nonneg n) (abs_nonneg d)
  rw [tdiv_eq_abs_ediv, if_pos hsigns] at h
  omega

/-- R64: a clamp of SDIV has a divisor other than zero. -/
theorem ne_zero_of_fSdiv_sat {a b : Word} (h : (fSdiv a b).sat = true) : b ≠ 0 := by
  rintro rfl
  rw [fSdiv_zero] at h
  cases h

theorem fSdiv_of_sat {a b : Word} (h : (fSdiv a b).sat = true) :
    (fSdiv a b).res = if (signed a < 0 ↔ signed b < 0) then 0x7FFFFFFF else 0x80000000 := by
  have hb := ne_zero_of_fSdiv_sat h
  have hdivisor := signed_ne_zero hb
  rw [fSdiv_of_ne_zero a hb] at h ⊢
  refine deliverClamp_res_of_sat (fun habove => ?_) (fun hbelow => ?_) h
  · have hsigns := signs_eq_of_tdiv_pos (by omega : 0 < tdiv (signed a * 65536) (signed b))
    omega
  · have hsigns := signs_ne_of_tdiv_neg (by omega : tdiv (signed a * 65536) (signed b) < 0)
    omega

/-- Settles O26: each of the four commands latches its own result, whose clamp is read off the operands. -/
theorem clampFollowsOperandSigns : Obligations.ClampFollowsOperandSigns := by
  unfold Obligations.ClampFollowsOperandSigns
  refine fun a b s t hsat => ⟨fun h => ?_, fun h => ?_, fun h => ?_, fun h => ?_⟩ <;> obtain rfl := exec_eq_next.1 h
  · exact fSadd_of_sat hsat
  · exact fSsub_of_sat hsat
  · exact fSmul_of_sat hsat
  · exact fSdiv_of_sat hsat

end Sys2Proof.Machine
end

section
/-! The saturating family beside the plain one (R65). -/

namespace Sys2Proof.Machine

/-- R65: the relations between the state `t` a plain command leads to and the state `u` its saturating counterpart leads to. -/
def State.agreesUpToOverflow (t u : State) : Prop :=
  (t.cause = .none → u.shows t.res .none false) ∧
  (t.cause = .overflow ↔ u.sat = true) ∧
  (t.cause = .overflow → t.res = 0x80000000 ∧ (u.res = 0x7FFFFFFF ∨ u.res = 0x80000000)) ∧
  (t.cause = .divzero ↔ u.cause = .divzero) ∧
  (t.cause = .divzero → t.shows 0x80000000 .divzero false ∧ u.shows 0x80000000 .divzero false) ∧
  (u.sat = true → u.res = 0x7FFFFFFF ∨ u.res = 0x80000000)

/-- R40, R60: the two policies over one exact result differ out of range only. -/
theorem deliver_agreesUpToOverflow (n : Int) (s : State) :
    (s.latch (deliverSentinel n)).agreesUpToOverflow (s.latch (deliverClamp n)) := by
  by_cases h : inrange n
  · rw [deliverSentinel_inrange h, deliverClamp_inrange h]
    exact ⟨fun _ => ⟨rfl, rfl, rfl⟩, ⟨nofun, nofun⟩, nofun, ⟨nofun, nofun⟩, nofun, nofun⟩
  · have hsat := (deliverClamp_sat_iff n).2 h
    obtain ⟨-, hclamp, -⟩ := deliverClamp_sound n
    obtain ⟨hcause, hboundary⟩ := hclamp hsat
    rw [deliverSentinel_overflow h]
    exact ⟨nofun, ⟨fun _ => hsat, fun _ => rfl⟩, fun _ => ⟨rfl, hboundary⟩,
      ⟨nofun, fun hdivzero => absurd (hcause.symm.trans hdivzero) nofun⟩, nofun, fun _ => hboundary⟩

/-- R46, R64: a zero divisor is the same error of DIV and SDIV; over any other divisor they are the two policies over one
quotient. -/
theorem div_agreesUpToOverflow (a b : Word) (s : State) :
    (s.latch (fDiv a b)).agreesUpToOverflow (s.latch (fSdiv a b)) := by
  by_cases hb : b = 0
  · rw [hb, fDiv_zero, fSdiv_zero]
    exact ⟨nofun, ⟨nofun, nofun⟩, nofun, Iff.rfl, fun _ => ⟨⟨rfl, rfl, rfl⟩, ⟨rfl, rfl, rfl⟩⟩, nofun⟩
  · rw [fDiv_of_ne_zero a hb, fSdiv_of_ne_zero a hb]
    exact deliver_agreesUpToOverflow _ s

/-- Settles O27: three pairs are the two policies over one exact result, and the fourth tests its divisor first. -/
theorem saturatingAgreesWithPlain : Obligations.SaturatingAgreesWithPlain := by
  unfold Obligations.SaturatingAgreesWithPlain
  simp only [List.forall_mem_cons]
  exact ⟨fun a b s => ⟨_, _, rfl, rfl, deliver_agreesUpToOverflow _ s⟩,
    fun a b s => ⟨_, _, rfl, rfl, deliver_agreesUpToOverflow _ s⟩,
    fun a b s => ⟨_, _, rfl, rfl, deliver_agreesUpToOverflow _ s⟩,
    fun a b s => ⟨_, _, rfl, rfl, div_agreesUpToOverflow a b s⟩, nofun⟩

end Sys2Proof.Machine
end

section
/-! The division identity (R66). -/

namespace Sys2Proof.Machine

/-- R12: in range is symmetric in sign. -/
theorem inrange_iff_abs_lt (n : Int) : inrange n ↔ |n| < 2 ^ 31 := by
  rw [abs_lt]
  unfold inrange
  omega

/-- R66: dividing by a number of magnitude at least 1.0 does not raise the magnitude. -/
theorem abs_tdiv_shifted_le (q : Int) {d : Int} (hd : 65536 ≤ |d|) : |tdiv (q * 65536) d| ≤ |q| := by
  have hd0 : d ≠ 0 := abs_pos.1 (by omega)
  have hcut := abs_tdiv_mul_le (q * 65536) hd0
  rw [abs_mul, abs_mul q] at hcut
  have hscale : |q| * 65536 ≤ |q| * |d| := by gcongr
  exact le_of_mul_le_mul_right (hcut.trans hscale) (by omega)

/-- R66: the product is rounded by half a unit at most and the quotient is cut by less than one, which together, in units of the
quotient, is less than two. -/
theorem abs_tdiv_rnd16_sub_le (m : Int) {d : Int} (hd : 65536 ≤ |d|) :
    |tdiv (rnd16 (m * d) * 65536) d - m| ≤ 1 := by
  have hd0 : d ≠ 0 := abs_pos.1 (by omega)
  obtain ⟨hround, -⟩ := productRounding (m * d)
  have hcut := abs_sub_tdiv_mul_lt (rnd16 (m * d) * 65536) hd0
  have hsplit : (tdiv (rnd16 (m * d) * 65536) d - m) * d = (rnd16 (m * d) * 65536 - m * d) -
      (rnd16 (m * d) * 65536 - tdiv (rnd16 (m * d) * 65536) d * d) := by ring
  have hmul : |tdiv (rnd16 (m * d) * 65536) d - m| * |d| < 2 * |d| := by
    rw [← abs_mul, hsplit]
    linarith [abs_sub (rnd16 (m * d) * 65536 - m * d) (rnd16 (m * d) * 65536 - tdiv (rnd16 (m * d) * 65536) d * d)]
  exact Int.lt_add_one_iff.1 (lt_of_mul_lt_mul_right hmul (abs_nonneg d))

/-- R66: SDIV takes an SMUL that did not clamp back to within one raw unit. -/
theorem fSdiv_fSmul {a b : Word} (hb : 65536 ≤ |signed b|) (hsat : (fSmul a b).sat = false) :
    (fSdiv (fSmul a b).res b).cause = .none ∧ (fSdiv (fSmul a b).res b).sat = false ∧
      |signed (fSdiv (fSmul a b).res b).res - signed a| ≤ 1 := by
  have hproduct : inrange (rnd16 (signed a * signed b)) := by
    by_contra hout
    exact absurd (((deliverClamp_sat_iff _).2 hout).symm.trans hsat) nofun
  have hb0 : b ≠ 0 := (Laws.signed_eq_zero_iff b).not.1 (abs_pos.1 (by omega))
  obtain ⟨hres, -⟩ : signed (fSmul a b).res = rnd16 (signed a * signed b) ∧ _ := deliverClamp_exact hproduct
  have hquotient : inrange (tdiv (rnd16 (signed a * signed b) * 65536) (signed b)) :=
    (inrange_iff_abs_lt _).2 ((abs_tdiv_shifted_le _ hb).trans_lt ((inrange_iff_abs_lt _).1 hproduct))
  rw [fSdiv_of_ne_zero _ hb0, hres]
  obtain ⟨hexact, hnoclamp⟩ := deliverClamp_exact hquotient
  rw [hexact]
  exact ⟨deliverClamp_cause _, hnoclamp, abs_tdiv_rnd16_sub_le _ hb⟩

/-- Settles O28: the identity for divisors of magnitude at least 1.0, and the rule's counterexample by evaluation. -/
theorem divisionIdentity : Obligations.DivisionIdentity := by
  unfold Obligations.DivisionIdentity
  refine ⟨fun a b s t hb h hsat => ?_, fun s => ?_⟩
  · obtain rfl := exec_eq_next.1 h
    exact ⟨_, rfl, fSdiv_fSmul hb hsat⟩
  · have hproduct : (fSmul 0x00018000 0x00000001).res = 0x00000002 := by decide
    have hback : (fSdiv (fSmul 0x00018000 0x00000001).res 0x00000001).res = 0x00020000 := by decide
    refine ⟨_, _, rfl, rfl, hproduct, ?_⟩
    rw [State.latch_res, State.latch_res]
    exact hback

end Sys2Proof.Machine
end

section
/-! The digit recurrence of the square root (R71). -/

namespace Sys2Proof.Machine

/-- R71: the loop invariant, for the part `n` of the radicand brought down so far: `p` is its integer square root with the
remainder. -/
def RootRem.isRootOf (p : RootRem) (n : Nat) : Prop := p.root ^ 2 + p.rem = n ∧ p.rem ≤ 2 * p.root

/-- R71: shifting the lowest bits in is adding them. -/
theorem shiftLeft_or_eq_add (x : Nat) {k y : Nat} (hy : y < 2 ^ k) : x <<< k ||| y = x * 2 ^ k + y := by
  rw [← Nat.shiftLeft_add_eq_or_of_lt hy, Nat.shiftLeft_eq]

/-- R71: one iteration in plain arithmetic. -/
theorem isqrtStep_eq (N i : Nat) (p : RootRem) : isqrtStep N i p =
    if p.root * 4 + 1 ≤ p.rem * 4 + (N >>> (2 * i)) % 4 then
      { root := p.root * 2 + 1, rem := p.rem * 4 + (N >>> (2 * i)) % 4 - (p.root * 4 + 1) }
    else { root := p.root * 2, rem := p.rem * 4 + (N >>> (2 * i)) % 4 } := by
  have hbits : p.rem <<< 2 ||| (N >>> (2 * i) &&& 3) = p.rem * 4 + (N >>> (2 * i)) % 4 := by
    rw [show N >>> (2 * i) &&& 3 = (N >>> (2 * i)) % 4 from Nat.and_two_pow_sub_one_eq_mod _ 2]
    exact shiftLeft_or_eq_add _ (Nat.mod_lt _ (by decide))
  have htrial : p.root <<< 2 ||| 1 = p.root * 4 + 1 := shiftLeft_or_eq_add _ (by decide)
  have hone : p.root <<< 1 ||| 1 = p.root * 2 + 1 := shiftLeft_or_eq_add _ (by decide)
  simp only [isqrtStep, hbits, htrial, hone, ge_iff_le]
  rw [Nat.shiftLeft_eq p.root 1, pow_one]

/-- R71: bringing down two more bits of the radicand. -/
theorem shiftRight_two_mul (N i : Nat) : N >>> (2 * i) = N >>> (2 * (i + 1)) * 4 + (N >>> (2 * i)) % 4 := by
  have hshift : N >>> (2 * (i + 1)) = N >>> (2 * i) / 4 := by 
    rw [Nat.mul_succ, Nat.shiftRight_add, Nat.shiftRight_eq_div_pow _ 2]
  omega

/-- R71: an iteration keeps the loop invariant, because `(2r + 1)^2 = 4r^2 + 4r + 1`. -/
theorem isqrtStep_isRootOf {N i : Nat} {p : RootRem} (h : p.isRootOf (N >>> (2 * (i + 1)))) :
    (isqrtStep N i p).isRootOf (N >>> (2 * i)) := by
  obtain ⟨hvalue, hrem⟩ := h
  have hdigit := shiftRight_two_mul N i
  have hlt : (N >>> (2 * i)) % 4 < 4 := Nat.mod_lt _ (by decide)
  have hdouble : (p.root * 2) ^ 2 = p.root ^ 2 * 4 := mul_pow p.root 2 2
  have hdouble_succ : (p.root * 2 + 1) ^ 2 = p.root ^ 2 * 4 + (p.root * 4 + 1) := by ring
  rw [isqrtStep_eq]
  unfold RootRem.isRootOf
  split <;> dsimp only <;> omega

/-- R71: the iterations that are left bring the whole radicand down. -/
theorem isqrtLoop_isRootOf {N i : Nat} {p : RootRem} (h : p.isRootOf (N >>> (2 * i))) : (isqrtLoop N i p).isRootOf N := by
  induction i generalizing p with
  | zero => exact h
  | succ i ih => exact ih (isqrtStep_isRootOf h)

/-- R71: 24 iterations are enough for 48 bits. -/
theorem isqrt48_isRootOf {N : Nat} (h : N < 2 ^ 48) : (isqrt48 N).isRootOf N := by
  refine isqrtLoop_isRootOf ?_
  rw [Nat.shiftRight_eq_zero N (2 * sqrtIterations) h]
  exact ⟨rfl, le_rfl⟩

theorem RootRem.isRootOf.root_eq_sqrt {p : RootRem} {n : Nat} (h : p.isRootOf n) : p.root = Nat.sqrt n := by
  obtain ⟨hvalue, hrem⟩ := h
  refine Nat.eq_sqrt'.2 ⟨by omega, ?_⟩
  rw [add_sq]
  omega

/-- Settles O29: the invariant is kept by each iteration, and holds after the last. -/
theorem squareRootRecurrence : Obligations.SquareRootRecurrence := by
  unfold Obligations.SquareRootRecurrence
  refine ⟨fun N i p hvalue hrem => isqrtStep_isRootOf ⟨hvalue, hrem⟩, fun N hN => ?_⟩
  have hroot := isqrt48_isRootOf hN
  refine ⟨hroot.root_eq_sqrt, ?_, hroot.2, isqrt48_root_lt N⟩
  rw [← sq]
  exact Nat.eq_sub_of_add_eq' hroot.1

end Sys2Proof.Machine
end

section
/-! Rounding the root to nearest (R70), and SQRT. -/

namespace Sys2Proof.Machine

/-- R70: `r` is the nearest integer to the square root of `m`: `m` lies strictly between `(r - 1/2)^2` and `(r + 1/2)^2`. -/
def isNearestRoot (r m : Int) : Prop := 4 * m < (2 * r + 1) ^ 2 ∧ (r = 0 ∨ (2 * r - 1) ^ 2 < 4 * m)

/-- R72: the nearest root is monotonic, and so there is one only. -/
theorem isNearestRoot.le {r r' m m' : Int} (h : isNearestRoot r m) (h' : isNearestRoot r' m') (hr' : 0 ≤ r')
    (hm : m ≤ m') : r ≤ r' := by
  by_contra! hlt
  have hlower : (2 * r - 1) ^ 2 < 4 * m := h.2.resolve_left (by omega)
  have hupper : 4 * m' < (2 * r' + 1) ^ 2 := h'.1
  have hsq : (2 * r' + 1) ^ 2 ≤ (2 * r - 1) ^ 2 := by gcongr; omega
  omega

theorem isNearestRoot_sq {k : Int} (hk : 0 ≤ k) : isNearestRoot k (k ^ 2) := by
  refine ⟨by linarith, ?_⟩
  rcases hk.eq_or_lt with rfl | hpos
  · exact .inl rfl
  · exact .inr (by linarith)

/-- R72: squaring the nearest root is off by at most the root. -/
theorem isNearestRoot.abs_sq_sub_le {r m : Int} (h : isNearestRoot r m) (hm : 0 ≤ m) : |r ^ 2 - m| ≤ r := by
  rw [abs_le]
  obtain ⟨hupper, rfl | hlower⟩ := h
  · omega
  · constructor <;> linarith

/-- R70: the rounded root of a radicand, as SQRT computes it. -/
def roundedRoot (N : Nat) : Nat :=
  let p := isqrt48 N
  if p.rem > p.root then p.root + 1 else p.root

/-- R70: `root + 1` is the nearer one exactly when the remainder is greater than the root. -/
theorem roundedRoot_isNearestRoot {N : Nat} (h : N < 2 ^ 48) : isNearestRoot (roundedRoot N) N := by
  obtain ⟨hvalue, hrem⟩ := isqrt48_isRootOf h
  unfold isNearestRoot roundedRoot
  generalize isqrt48 N = p at *
  have hN : (N : Int) = (p.root : Int) ^ 2 + p.rem := by rw [← hvalue]; push_cast; rfl
  dsimp only
  rw [hN]
  split
  case isTrue hup =>
    push_cast
    exact ⟨by linarith, .inr (by linarith)⟩
  case isFalse hdown =>
    refine ⟨by linarith, ?_⟩
    rcases Nat.eq_zero_or_pos p.root with hzero | hpos
    · exact .inl (by rw [hzero]; rfl)
    · exact .inr (by linarith)

theorem fSqrt_of_neg {a : Word} (h : signed a < 0) : fSqrt a = errorResult .domain := if_pos h

theorem fSqrt_of_nonneg {a : Word} (h : 0 ≤ signed a) :
    fSqrt a = plainResult (wrap32 (roundedRoot (signed a * 65536).toNat)) := by
  rw [fSqrt, if_neg (not_lt.2 h), Laws.shl_sixteen]
  rfl

@[simp] theorem fSqrt_sat (a : Word) : (fSqrt a).sat = false := by
  rcases lt_or_ge (signed a) 0 with h | h
  · rw [fSqrt_of_neg h, errorResult_sat]
  · rw [fSqrt_of_nonneg h, plainResult_sat]

/-- R70: the root of MAX is the largest one. -/
theorem isNearestRoot_max : isNearestRoot 0x00B504F3 ((2 ^ 31 - 1) * 65536) := ⟨by decide, .inr (by decide)⟩

/-- R70: what SQRT delivers for a non-negative operand. -/
theorem fSqrt_nearest {a : Word} (h : 0 ≤ signed a) :
    (fSqrt a).cause = .none ∧ 0 ≤ signed (fSqrt a).res ∧ signed (fSqrt a).res ≤ 0x00B504F3 ∧
      isNearestRoot (signed (fSqrt a).res) (signed a * 65536) := by
  have hupper := Laws.signed_upper a
  have hnearest : isNearestRoot (roundedRoot (signed a * 65536).toNat) (signed a * 65536) := by
    have hroot := roundedRoot_isNearestRoot (N := (signed a * 65536).toNat) (by omega)
    rwa [Int.toNat_of_nonneg (by omega)] at hroot
  have hmax := hnearest.le isNearestRoot_max (by decide) (by omega)
  rw [fSqrt_of_nonneg h, plainResult_res, signed_wrap32_inrange (inrange_natCast (by omega))]
  exact ⟨rfl, Int.natCast_nonneg _, hmax, hnearest⟩

/-- Settles O30: a negative operand is the domain error, and any other one has a nearest root in range. -/
theorem sqrtResult : Obligations.SqrtResult := by
  unfold Obligations.SqrtResult
  refine fun a b s => ⟨(Laws.EncodedFields.sqrt a b).1, s.latch (fSqrt a), rfl, s.sameRest_latch _, fSqrt_sat a,
    fun h => ?_, fSqrt_nearest⟩
  rw [fSqrt_of_neg h]
  exact ⟨rfl, rfl⟩

end Sys2Proof.Machine
end

section
/-! The properties of SQRT (R72), each read off the nearest root. -/

namespace Sys2Proof.Machine

theorem fSqrt_monotone {a a' : Word} (h : 0 ≤ signed a) (haa' : signed a ≤ signed a') :
    signed (fSqrt a).res ≤ signed (fSqrt a').res := by
  obtain ⟨-, -, -, hroot⟩ := fSqrt_nearest h
  obtain ⟨-, hnonneg', -, hroot'⟩ := fSqrt_nearest (h.trans haa')
  exact hroot.le hroot' hnonneg' (by omega)

/-- R72: the root of an exact square is its own nearest root. -/
theorem fSqrt_of_sq {a : Word} {k : Int} (hk : 0 ≤ k) (h : signed a * 65536 = k ^ 2) : (fSqrt a).res = wrap32 k := by
  have ha : 0 ≤ signed a := by have := sq_nonneg k; omega
  obtain ⟨-, hnonneg, -, hroot⟩ := fSqrt_nearest ha
  rw [h] at hroot
  have heq : signed (fSqrt a).res = k :=
    le_antisymm (hroot.le (isNearestRoot_sq hk) hk le_rfl) ((isNearestRoot_sq hk).le hroot hnonneg le_rfl)
  rw [← heq, Laws.wrap32_signed]

/-- R72: the square of the largest root is in range after the rounding. -/
theorem inrange_rnd16_sq {r : Int} (h : 0 ≤ r) (hr : r ≤ 0x00B504F3) : inrange (rnd16 (r * r)) := by
  have hnonneg : 0 ≤ r * r := mul_nonneg h h
  have hupper : r * r ≤ 0x00B504F3 * 0x00B504F3 := by gcongr
  rw [rnd16_of_nonneg hnonneg]
  constructor <;> omega

/-- R72: MUL takes the root back to near the operand: off by the root, and by half a unit of the rounding. -/
theorem fMul_fSqrt {a : Word} (h : 0 ≤ signed a) :
    (fMul (fSqrt a).res (fSqrt a).res).cause = .none ∧
      65536 * |signed (fMul (fSqrt a).res (fSqrt a).res).res - signed a| ≤ signed (fSqrt a).res + 1 + 65536 := by
  obtain ⟨-, hnonneg, hmax, hroot⟩ := fSqrt_nearest h
  have hsquare := hroot.abs_sq_sub_le (by omega)
  rw [sq] at hsquare
  obtain ⟨hround, -⟩ := productRounding (signed (fSqrt a).res * signed (fSqrt a).res)
  obtain ⟨hexact, hcause⟩ := deliverSentinel_exact (inrange_rnd16_sq hnonneg hmax)
  rw [fMul, hexact]
  refine ⟨hcause, ?_⟩
  simp only [Int.abs_eq_natAbs] at *
  omega

/-- Settles O31: monotonic, exact on squares, and near the operand when squared. -/
theorem sqrtProperties : Obligations.SqrtProperties := by
  unfold Obligations.SqrtProperties
  exact ⟨fun a a' b b' s h haa' => ⟨s.latch (fSqrt a), s.latch (fSqrt a'), rfl, rfl, fSqrt_monotone h haa'⟩,
    fun a b k s hk h => ⟨s.latch (fSqrt a), rfl, fSqrt_of_sq hk h⟩,
    fun a b s h => ⟨s.latch (fSqrt a), _, rfl, rfl, fMul_fSqrt h⟩⟩

end Sys2Proof.Machine
end

section
/-! The wired constants and the table of EXP against the real numbers they stand for (R75, R76). -/

namespace Sys2Proof.Machine

/-- R75: the library's ten digits of e give five of its inverse. -/
theorem inv_exp_one_bounds : 0.36787 < (Real.exp 1)⁻¹ ∧ (Real.exp 1)⁻¹ < 0.36788 := by
  have hlower := Real.exp_one_gt_d9
  have hupper := Real.exp_one_lt_d9
  constructor
  · rw [lt_inv_comm₀ (by norm_num) (Real.exp_pos 1)]
    norm_num at hupper ⊢
    linarith
  · rw [inv_lt_comm₀ (Real.exp_pos 1) (by norm_num)]
    norm_num at hlower ⊢
    linarith

/-- R75: the largest integer part of the format is a power of two, so its logarithm is one of two. -/
theorem log_32768 : Real.log 32768 = 15 * Real.log 2 := by
  rw [show (32768 : ℝ) = 2 ^ 15 by norm_num, Real.log_pow, Nat.cast_ofNat]

/-- Settles O32: the library's digits of e and ln 2 are fine enough for all four words. -/
theorem constantsAreRoundedReals : Obligations.ConstantsAreRoundedReals := by
  unfold Obligations.ConstantsAreRoundedReals
  obtain ⟨hinvLower, hinvUpper⟩ := inv_exp_one_bounds
  have heLower := Real.exp_one_gt_d9
  have heUpper := Real.exp_one_lt_d9
  have hlogLower := Real.log_two_gt_d9
  have hlogUpper := Real.log_two_lt_d9
  rw [show signed eWord = 178145 by decide, show signed invEWord = 24109 by decide, show signed ln2Word = 45426 by decide,
    show signed xSatWord = 681392 by decide, log_32768]
  norm_num at heLower heUpper hlogLower hlogUpper hinvLower hinvUpper
  push_cast
  refine ⟨?_, rfl, ?_, rfl, ?_, rfl, ?_, ?_, rfl, rfl⟩
  · rw [abs_lt]; constructor <;> linarith
  · rw [abs_lt]; constructor <;> linarith
  · rw [abs_lt]; constructor <;> linarith
  · linarith
  · linarith

/-- R76: `e` is the real value `log x * 2^30` rounded when the exponentials of its two half-unit neighbours enclose `x`. -/
theorem abs_sub_log_mul_le {x e : ℝ} (hx : 0 < x) (hlower : Real.exp ((e - 1 / 2) / 2 ^ 30) ≤ x)
    (hupper : x ≤ Real.exp ((e + 1 / 2) / 2 ^ 30)) : |e - Real.log x * 2 ^ 30| ≤ 1 / 2 := by
  rw [← Real.le_log_iff_exp_le hx, div_le_iff₀ (by norm_num)] at hlower
  rw [← Real.log_le_iff_le_exp hx, le_div_iff₀ (by norm_num)] at hupper
  rw [abs_le]
  constructor <;> linarith

/-- R76: the entries are positive numbers of 30 bits. -/
theorem expTable_entry_bounds {i : Nat} (hi : i < 21) : 1 ≤ expTable.getD i 0 ∧ expTable.getD i 0 ≤ 2 ^ 30 := by
  interval_cases i <;> decide

/-- R76: each entry less half a unit is at most its logarithm. -/
theorem exp_expTable_sub_half_le {i : Nat} (hi : i < 21) :
    Real.exp (((expTable.getD i 0 : Nat) - 1 / 2) / 2 ^ 30) ≤ 1 + 1 / 2 ^ i := by
  obtain ⟨hmin, hmax⟩ := expTable_entry_bounds hi
  have hmin' : (1 : ℝ) ≤ (expTable.getD i 0 : Nat) := by exact_mod_cast hmin
  have hmax' : ((expTable.getD i 0 : Nat) : ℝ) ≤ 2 ^ 30 := by exact_mod_cast hmax
  refine (Real.exp_bound' (n := 13) (div_nonneg (by linarith) (by norm_num))
    (div_le_one_of_le₀ (by linarith) (by norm_num)) (by norm_num)).trans ?_
  interval_cases i <;> norm_num [expTable, Finset.sum_range_succ, Nat.factorial]

/-- R76: each entry and half a unit is at least its logarithm. -/
theorem le_exp_expTable_add_half {i : Nat} (hi : i < 21) :
    1 + 1 / 2 ^ i ≤ Real.exp (((expTable.getD i 0 : Nat) + 1 / 2) / 2 ^ 30) := by
  refine le_trans ?_ (Real.sum_le_exp_of_nonneg (by positivity) 13)
  interval_cases i <;> norm_num [expTable, Finset.sum_range_succ, Nat.factorial]

/-- Settles O33: thirteen terms of the exponential series enclose every entry. -/
theorem expTableIsRoundedLogs : Obligations.ExpTableIsRoundedLogs := by
  unfold Obligations.ExpTableIsRoundedLogs
  exact ⟨rfl, fun k => abs_sub_log_mul_le (by positivity) (exp_expTable_sub_half_le k.isLt)
    (le_exp_expTable_add_half k.isLt)⟩

end Sys2Proof.Machine
end

section
/-! The recurrence of EXP's fraction (R77): its accumulator only grows, and its exponent is used up. -/

namespace Sys2Proof.Machine

theorem le_expStep_y (k e : Nat) (p : ExpAcc) : p.y ≤ (expStep k e p).y := by
  unfold expStep
  split
  · exact Nat.le_add_right _ _
  · exact le_rfl

/-- R77: each step adds to the accumulator or leaves it. -/
theorem le_expLoop_y (table : List Nat) (k : Nat) (p : ExpAcc) : p.y ≤ (expLoop k table p).y := by
  induction table generalizing k p with
  | nil => exact le_rfl
  | cons e rest ih => exact (le_expStep_y k e p).trans (ih (k + 1) (expStep k e p))

/-- R77: using an entry at most once is enough below twice the entry. -/
theorem expStep_t_lt {k e : Nat} {p : ExpAcc} (h : p.t < 2 * e) : (expStep k e p).t < e := by
  unfold expStep
  split
  · dsimp only
    omega
  · omega

/-- R77: when no entry is above twice the next one, what is left of the exponent ends below the last entry. -/
theorem expLoop_t_lt {e : Nat} {rest : List Nat} (htable : List.IsChain (fun e e' => e ≤ 2 * e') (e :: rest)) (k : Nat)
    {p : ExpAcc} (h : p.t < 2 * e) : (expLoop k (e :: rest) p).t < (e :: rest).getLast (by simp) := by
  induction rest generalizing k e p with
  | nil => exact expStep_t_lt h
  | cons e' rest ih =>
    obtain ⟨hnext, hrest⟩ := List.isChain_cons_cons.1 htable
    rw [List.getLast_cons (by simp)]
    exact ih hrest (k + 1) ((expStep_t_lt h).trans_le hnext)

/-- R77: the rounding of the accumulator from Q2.30 to Q16.16. -/
theorem expFrac_eq (r : Nat) :
    expFrac r = ((expLoop 0 expTable { t := r <<< 14, y := 0x40000000 }).y + 0x2000) / 2 ^ 14 :=
  Nat.shiftRight_eq_div_pow _ 14

/-- Settles O34. The upper end is that of the true exponential, and it bounds the accumulator too. -/
theorem expFractionRange : Obligations.ExpFractionRange := by
  unfold Obligations.ExpFractionRange
  refine ⟨by decide, fun r hr => ?_⟩
  have hgrows := le_expLoop_y expTable 0 { t := r <<< 14, y := 0x40000000 }
  have hupper := expFrac_le hr
  have hround := expFrac_eq r
  have hrest : (expLoop 0 expTable { t := r <<< 14, y := 0x40000000 }).t < 0x400 :=
    expLoop_t_lt (by decide) 0 (by dsimp only; omega)
  dsimp only at hgrows
  omega

end Sys2Proof.Machine
end

section
/-! EXP and its underflow (R78), in the plain arithmetic of `mulRound`: the cap on the multiplications never shows. -/

namespace Sys2Proof.Machine

/-- R78: 13 multiplications by 1/e, and so any larger number, take every fraction's exponential to zero. -/
theorem iterate_mulRound_invE_eq_zero {f n : Nat} (hf : f ≤ 178143) (hn : kNeg ≤ n) : (mulRound 24109)^[n] f = 0 := by
  have hcap : (mulRound 24109)^[kNeg] f ≤ (mulRound 24109)^[kNeg] 178143 := (mulRound_monotone _).iterate kNeg hf
  have hzero : (mulRound 24109)^[kNeg] 178143 = 0 := by decide
  rw [← Nat.sub_add_cancel hn, Function.iterate_add_apply, Nat.le_zero.1 (hcap.trans_eq hzero)]
  exact Function.iterate_fixed rfl _

/-- R78: the cap KNEG changes no value. -/
theorem iterate_mulRound_invE_min {f : Nat} (hf : f ≤ 178143) (n : Nat) :
    (mulRound 24109)^[min n kNeg] f = (mulRound 24109)^[n] f := by
  rcases le_total n kNeg with h | h
  · rw [min_eq_left h]
  · rw [min_eq_right h, iterate_mulRound_invE_eq_zero hf le_rfl, iterate_mulRound_invE_eq_zero hf h]

/-- R78: EXP below zero, without the cap. -/
theorem fExp_of_neg_uncapped {a : Word} (h : signed a < 0) :
    (mulRound 24109)^[(-(signed a / 65536)).toNat] (expFrac (signed a % 65536).toNat) < 2 ^ 31 ∧
    fExp a = plainResult (wrap32
      ((mulRound 24109)^[(-(signed a / 65536)).toNat] (expFrac (signed a % 65536).toNat) : Nat)) := by
  refine ⟨iterate_mulRound_invE_lt (expFrac_emod_le _) _, ?_⟩
  rw [fExp_of_neg h, iterate_mulRound_invE_min (expFrac_emod_le _)]

/-- R78: everything EXP can do: a clamp from X_SAT on, and a value without a clamp below. -/
theorem fExp_cases (a : Word) :
    (681392 ≤ signed a ∧ fExp a = clampResult maxWord) ∨ (signed a < 681392 ∧ ∃ w, fExp a = plainResult w) := by
  rcases lt_or_ge (signed a) 681392 with hlt | hsat
  · refine .inr ⟨hlt, ?_⟩
    rcases lt_or_ge (signed a) 0 with hneg | hnonneg
    · exact ⟨_, fExp_of_neg hneg⟩
    · exact ⟨_, (fExp_of_nonneg hnonneg hlt).2⟩
  · exact .inl ⟨hsat, fExp_of_xSat_le hsat⟩

@[simp] theorem fExp_cause (a : Word) : (fExp a).cause = .none := by
  rcases fExp_cases a with ⟨-, heq⟩ | ⟨-, w, heq⟩
  · rw [heq, clampResult_cause]
  · rw [heq, plainResult_cause]

/-- R78: the threshold X_SAT is all that clamps. -/
theorem fExp_sat_iff (a : Word) : (fExp a).sat = true ↔ 681392 ≤ signed a := by
  rcases fExp_cases a with ⟨hsat, heq⟩ | ⟨hlt, w, heq⟩
  · rw [heq]
    exact iff_of_true rfl hsat
  · rw [heq]
    exact iff_of_false nofun (not_le.2 hlt)

/-- Settles O35: from X_SAT on EXP clamps, and below it the chain is plain iteration on either side of zero. -/
theorem expResult : Obligations.ExpResult := by
  unfold Obligations.ExpResult
  refine fun a b s => ⟨(Laws.EncodedFields.exp a b).1, s.latch (fExp a), rfl, s.sameRest_latch _, fExp_cause a,
    fExp_sat_iff a, fun hsat => ?_, fun ⟨hnonneg, hlt⟩ => ?_, fun hneg => ?_⟩
  · rw [fExp_of_xSat_le hsat]
    rfl
  · obtain ⟨hrange, heq⟩ := fExp_of_nonneg hnonneg hlt
    rw [heq]
    exact signed_wrap32_inrange (inrange_natCast hrange)
  · obtain ⟨hrange, heq⟩ := fExp_of_neg_uncapped hneg
    rw [heq]
    exact signed_wrap32_inrange (inrange_natCast hrange)

/-- R78: the largest exponential of a fraction beside the integer part -12 that still underflows. -/
theorem expFrac_le_at_underflow {r : Nat} (h : r ≤ 27878) : expFrac r ≤ 100282 := by
  refine expFrac_le_of_exp_lt h ?_
  have := Real.exp_bound' (x := 27878 / 65536 + 21 / 2 ^ 30) (by norm_num) (by norm_num) (n := 13) (by norm_num)
  norm_num [Finset.sum_range_succ, Nat.factorial] at this ⊢
  linarith

/-- R78: the underflow, by the integer part: at -12 the fraction decides, below it 13 multiplications do. -/
theorem fExp_of_underflow {a : Word} (h : signed a ≤ -758554) : fExp a = plainResult 0 := by
  have hzero : (mulRound 24109)^[(-(signed a / 65536)).toNat] (expFrac (signed a % 65536).toNat) = 0 := by
    rcases lt_or_ge (signed a) (-786432) with hlow | hhigh
    · exact iterate_mulRound_invE_eq_zero (expFrac_emod_le _) (by rw [kNeg]; omega)
    · have hcount : (-(signed a / 65536)).toNat = 12 := by omega
      have hfrac : expFrac (signed a % 65536).toNat ≤ 100282 := expFrac_le_at_underflow (by omega)
      have hmono := (mulRound_monotone 24109).iterate 12 hfrac
      have hlast : (mulRound 24109)^[12] 100282 = 0 := by decide
      rw [hcount]
      exact Nat.le_zero.1 (hmono.trans_eq hlast)
  rw [(fExp_of_neg_uncapped (by omega)).2, hzero]
  rfl

/-- R78: the first operand above the underflow splits into the integer part -12 and the fraction 27879. -/
theorem fExp_above_underflow : fExp 0xFFF46CE7 = plainResult 1 := by
  have hsigned : signed (0xFFF46CE7 : Word) = -758553 := by decide
  have hfrac : expFrac 27879 = 100283 := by decide
  have hchain : (mulRound 24109)^[12] 100283 = 1 := by decide
  have hexp := (fExp_of_neg_uncapped (a := 0xFFF46CE7) (by rw [hsigned]; decide)).2
  rw [hsigned, show ((-758553 : Int) % 65536).toNat = 27879 from rfl, hfrac,
    show (-((-758553 : Int) / 65536)).toNat = 12 from rfl, hchain] at hexp
  exact hexp

/-- Settles O36: 0xFFF46CE7 is -758553, the first operand above the underflow. -/
theorem expUnderflow : Obligations.ExpUnderflow := by
  unfold Obligations.ExpUnderflow
  refine ⟨fun a b s h => ⟨s.latch (fExp a), rfl, ?_⟩, fun b s => ⟨s.latch (fExp 0xFFF46CE7), rfl, ?_⟩⟩
  · rw [fExp_of_underflow h]
    exact ⟨rfl, rfl, rfl⟩
  · rw [fExp_above_underflow]
    exact ⟨rfl, rfl, rfl⟩

end Sys2Proof.Machine
end

section
/-! The logarithm engine (R79): the bit scan, the mantissa invariant, and what the engine delivers. -/

namespace Sys2Proof.Machine

/-- R79: the scan from bit `k` down finds the highest set bit of a number that has no bit above `k`. -/
theorem bitScan_bounds {x k : Nat} (hpos : 1 ≤ x) (hx : x < 2 ^ (k + 1)) :
    2 ^ bitScan x k ≤ x ∧ x < 2 ^ (bitScan x k + 1) := by
  induction k with
  | zero => exact ⟨hpos, hx⟩
  | succ k ih =>
    unfold bitScan
    split
    case isTrue hbit => exact ⟨Nat.ge_two_pow_of_testBit hbit, hx⟩
    case isFalse hbit =>
      refine ih (Nat.lt_pow_two_of_testBit x fun i hi => ?_)
      rcases hi.lt_or_eq with hgt | rfl
      · exact Nat.testBit_lt_two_pow (hx.trans_le (Nat.pow_le_pow_right two_pos hgt))
      · exact Bool.eq_false_iff.2 hbit

/-- R79: the highest set bit is the only position with these bounds. -/
theorem bitScan_eq {x n : Nat} (hn : n ≤ 30) (hlower : 2 ^ n ≤ x) (hupper : x < 2 ^ (n + 1)) : bitScan x 30 = n := by
  have hx : x < 2 ^ 31 := hupper.trans_le (Nat.pow_le_pow_right two_pos (by omega))
  obtain ⟨hlower', hupper'⟩ := bitScan_bounds (k := 30) (Nat.one_le_two_pow.trans hlower) hx
  have hle : n < bitScan x 30 + 1 := (Nat.pow_lt_pow_iff_right one_lt_two).1 (hlower.trans_lt hupper')
  have hge : bitScan x 30 < n + 1 := (Nat.pow_lt_pow_iff_right one_lt_two).1 (hlower'.trans_lt hupper)
  omega

/-- R79: the mantissa is a number from 1 to below 2 in Q1.31. -/
def LogAcc.normalised (p : LogAcc) : Prop := 2 ^ 31 ≤ p.m ∧ p.m < 2 ^ 32

/-- R79: the mantissa of an operand whose highest set bit is `n`, before the first squaring. -/
def startAcc (x n : Nat) : LogAcc := { m := x * 2 ^ (31 - n), frac := 0 }

theorem startAcc_normalised {x n : Nat} (hn : n ≤ 30) (hlower : 2 ^ n ≤ x) (hupper : x < 2 ^ (n + 1)) :
    (startAcc x n).normalised := by
  unfold LogAcc.normalised startAcc
  rw [show (2 : Nat) ^ 31 = 2 ^ n * 2 ^ (31 - n) by rw [← pow_add]; congr 1; omega,
    show (2 : Nat) ^ 32 = 2 ^ (n + 1) * 2 ^ (31 - n) by rw [← pow_add]; congr 1; omega]
  exact ⟨Nat.mul_le_mul_right _ hlower, Nat.mul_lt_mul_of_pos_right hupper (by positivity)⟩

/-- R79: the engine's result, by the position of the highest set bit. -/
theorem log2Core_eq {x n : Nat} (hn : n ≤ 30) (hlower : 2 ^ n ≤ x) (hupper : x < 2 ^ (n + 1)) :
    log2Core x = ((n : Int) - 16) * 65536 + (logLoop log2Iterations (startAcc x n)).frac := by
  obtain ⟨-, hm⟩ := startAcc_normalised hn hlower hupper
  rw [startAcc] at hm
  simp only [log2Core, bitScan_eq hn hlower hupper, Nat.shiftLeft_eq, Nat.mod_eq_of_lt hm, startAcc]

/-- R79: 16 squarings give 16 fraction bits. -/
theorem log2_frac_lt (x n : Nat) : (logLoop log2Iterations (startAcc x n)).frac < 65536 :=
  logLoop_frac_lt log2Iterations (n := 0) (p := startAcc x n) Nat.one_pos

/-- R79: one squaring in plain arithmetic: the slices of the square are its quotients. -/
theorem logStep_eq {p : LogAcc} (h : p.normalised) : logStep p =
    if 2 ^ 63 ≤ p.m * p.m then { m := p.m * p.m / 2 ^ 32, frac := 2 * p.frac + 1 }
    else { m := p.m * p.m / 2 ^ 31, frac := 2 * p.frac } := by
  obtain ⟨-, hupper⟩ := h
  have hsq : p.m * p.m < 2 ^ 32 * 2 ^ 32 := Nat.mul_lt_mul'' hupper hupper
  have htop : (p.m * p.m).testBit 63 = true ↔ 2 ^ 63 ≤ p.m * p.m := by
    rw [Nat.testBit_eq_decide_div_mod_eq, decide_eq_true_iff]
    omega
  have hfrac : p.frac <<< 1 = 2 * p.frac := by rw [Nat.shiftLeft_eq, pow_one, mul_comm]
  have hfracOne : 2 * p.frac ||| 1 = 2 * p.frac + 1 := by
    rw [← hfrac, ← Nat.shiftLeft_add_eq_or_of_lt (by decide)]
  simp only [logStep, htop, hfrac, hfracOne, slice]
  split
  · rw [Nat.mod_eq_of_lt (by omega)]
  · rw [Nat.mod_eq_of_lt (by omega)]

/-- R79: a squaring keeps the mantissa normalised. -/
theorem logStep_normalised {p : LogAcc} (h : p.normalised) : (logStep p).normalised := by
  have hstep := logStep_eq h
  obtain ⟨hlower, hupper⟩ := h
  have hsqLower : 2 ^ 31 * 2 ^ 31 ≤ p.m * p.m := Nat.mul_le_mul hlower hlower
  have hsqUpper : p.m * p.m < 2 ^ 32 * 2 ^ 32 := Nat.mul_lt_mul'' hupper hupper
  rw [hstep]
  unfold LogAcc.normalised
  split <;> dsimp only <;> omega

/-- R79: what the engine delivers, with the integer part and the fraction apart. -/
theorem log2Core_bounds {x : Nat} (hpos : 1 ≤ x) (hx : x ≤ 2 ^ 31 - 1) :
    log2Core x / 65536 = (bitScan x 30 : Int) - 16 ∧ -1048576 ≤ log2Core x ∧ log2Core x ≤ 983039 := by
  obtain ⟨hlower, hupper⟩ := bitScan_bounds (k := 30) hpos (by omega)
  have hscan := bitScan_le x 30
  have hfrac := log2_frac_lt x (bitScan x 30)
  rw [log2Core_eq hscan hlower hupper]
  omega

/-- Settles O37: the invariant of a squaring, and the bounds of the bit scan that fix the integer part. -/
theorem logarithmEngine : Obligations.LogarithmEngine := by
  unfold Obligations.LogarithmEngine
  refine ⟨fun p hlower hupper => logStep_normalised ⟨hlower, hupper⟩, fun x hpos hx => ?_⟩
  obtain ⟨hlower, hupper⟩ := bitScan_bounds (k := 30) hpos (by omega)
  exact ⟨hlower, hupper, log2Core_bounds hpos hx⟩

end Sys2Proof.Machine
end

section
/-! The accuracy of the logarithm engine (R79, R83): each squaring cuts off less than one unit of a mantissa of at least 2^31
units, a factor of at most 1 + 2^-31. -/

namespace Sys2Proof.Machine

/-- R79: the number an accumulator stands for: its mantissa as a real number, and `2^frac` squared out of it. -/
noncomputable def LogAcc.value (p : LogAcc) : ℝ := 2 ^ p.frac * (p.m / 2 ^ 31)

/-- A quotient of at least `2^31` units loses at most a factor `1 + 2^-31` by being cut. -/
theorem cut_bounds {s d : Nat} (hd : 0 < d) (hq : 2 ^ 31 ≤ s / d) :
    (d : ℝ) * (s / d : Nat) ≤ s ∧ (s : ℝ) ≤ d * (s / d : Nat) * (1 + 1 / 2 ^ 31) := by
  have hlower : d * (s / d) ≤ s := Nat.mul_div_le s d
  have hupper : s < d * (s / d + 1) := Nat.lt_mul_div_succ s hd
  refine ⟨by exact_mod_cast hlower, ?_⟩
  have hone : (1 : ℝ) ≤ (s / d : Nat) / 2 ^ 31 := by
    rw [one_le_div (by positivity)]
    exact_mod_cast hq
  calc (s : ℝ) ≤ d * ((s / d : Nat) + 1) := by exact_mod_cast hupper.le
    _ ≤ d * ((s / d : Nat) + (s / d : Nat) / 2 ^ 31) := by gcongr
    _ = d * (s / d : Nat) * (1 + 1 / 2 ^ 31) := by ring

theorem LogAcc.value_sq (p : LogAcc) : p.value ^ 2 = 2 ^ (2 * p.frac) * ((p.m * p.m : Nat) / 2 ^ 62) := by
  rw [LogAcc.value, mul_pow, ← pow_mul, mul_comm p.frac 2]
  push_cast
  ring

/-- R79: the next fraction bit is the extra place by which the square is shifted down. -/
theorem exists_logStep_eq {p : LogAcc} (h : p.normalised) :
    ∃ bit, logStep p = { m := p.m * p.m / 2 ^ (31 + bit), frac := 2 * p.frac + bit } := by
  rw [logStep_eq h]
  split
  · exact ⟨1, rfl⟩
  · exact ⟨0, rfl⟩

/-- R79: one squaring squares the value, up to the cut. -/
theorem logStep_value {p : LogAcc} (h : p.normalised) :
    (logStep p).value ≤ p.value ^ 2 ∧ p.value ^ 2 ≤ (logStep p).value * (1 + 1 / 2 ^ 31) := by
  obtain ⟨hmantissa, -⟩ := logStep_normalised h
  obtain ⟨bit, heq⟩ := exists_logStep_eq h
  rw [heq] at hmantissa
  obtain ⟨hlower, hupper⟩ := cut_bounds (by positivity) hmantissa
  have hvalue : (logStep p).value =
      2 ^ (2 * p.frac) * ((2 ^ (31 + bit) : Nat) * (p.m * p.m / 2 ^ (31 + bit) : Nat) / 2 ^ 62) := by
    rw [heq, LogAcc.value, pow_add]
    push_cast
    ring
  rw [LogAcc.value_sq, hvalue, mul_assoc, div_mul_eq_mul_div]
  constructor
  · gcongr
  · gcongr

theorem LogAcc.value_nonneg (p : LogAcc) : 0 ≤ p.value := by
  unfold LogAcc.value
  positivity

theorem logLoop_normalised (k : Nat) {p : LogAcc} (h : p.normalised) : (logLoop k p).normalised := by
  induction k generalizing p with
  | zero => exact h
  | succ k ih => exact ih (logStep_normalised h)

/-- R79: `k` squarings raise the value to the power `2^k`, up to `2^k - 1` cuts. -/
theorem logLoop_value (k : Nat) {p : LogAcc} (h : p.normalised) :
    (logLoop k p).value ≤ p.value ^ 2 ^ k ∧
      p.value ^ 2 ^ k ≤ (logLoop k p).value * (1 + 1 / 2 ^ 31) ^ (2 ^ k - 1) := by
  induction k generalizing p with
  | zero => simp [logLoop]
  | succ k ih =>
    obtain ⟨hlower, hupper⟩ := ih (logStep_normalised h)
    obtain ⟨hstepLower, hstepUpper⟩ := logStep_value h
    have hcuts : 2 ^ (k + 1) - 1 = 2 ^ k - 1 + 2 ^ k := by
      have := Nat.one_le_two_pow (n := k)
      rw [pow_succ]
      omega
    have hpow : p.value ^ 2 ^ (k + 1) = (p.value ^ 2) ^ 2 ^ k := by rw [pow_succ', pow_mul]
    rw [logLoop, hpow, hcuts, pow_add]
    constructor
    · exact hlower.trans (pow_le_pow_left₀ (logStep p).value_nonneg hstepLower _)
    · calc (p.value ^ 2) ^ 2 ^ k ≤ ((logStep p).value * (1 + 1 / 2 ^ 31)) ^ 2 ^ k := by gcongr
        _ = (logStep p).value ^ 2 ^ k * (1 + 1 / 2 ^ 31) ^ 2 ^ k := mul_pow _ _ _
        _ ≤ (logLoop k (logStep p)).value * (1 + 1 / 2 ^ 31) ^ (2 ^ k - 1) * (1 + 1 / 2 ^ 31) ^ 2 ^ k := by gcongr
        _ = _ := mul_assoc _ _ _

/-- R83: the cuts of all 16 squarings together. -/
theorem cuts_lt : (1 + 1 / 2 ^ 31 : ℝ) ^ 65535 < 10001 / 10000 := by
  calc (1 + 1 / 2 ^ 31 : ℝ) ^ 65535 ≤ Real.exp (1 / 2 ^ 31) ^ 65535 := by
        gcongr
        rw [add_comm]
        exact Real.add_one_le_exp _
    _ = Real.exp (65535 / 2 ^ 31) := by rw [← Real.exp_nat_mul]; congr 1; norm_num
    _ ≤ 1 / (1 - 65535 / 2 ^ 31) := Real.exp_bound_div_one_sub_of_interval (by norm_num) (by norm_num)
    _ < 10001 / 10000 := by norm_num

/-- R79: the mantissa takes the value from `2^frac` to below the double. -/
theorem LogAcc.normalised.value_bounds {p : LogAcc} (h : p.normalised) :
    2 ^ p.frac ≤ p.value ∧ p.value < 2 ^ p.frac * 2 := by
  obtain ⟨hlower, hupper⟩ := h
  unfold LogAcc.value
  constructor
  · refine le_mul_of_one_le_right (by positivity) ?_
    rw [one_le_div (by positivity)]
    exact_mod_cast hlower
  · gcongr
    rw [div_lt_iff₀ (by positivity)]
    norm_num
    exact_mod_cast hupper

/-- R79: the normalised operand is the operand over its highest power of two. -/
theorem startAcc_value {x n : Nat} (hn : n ≤ 30) : (x : ℝ) = 2 ^ n * (startAcc x n).value := by
  have hsplit : (2 : ℝ) ^ 31 = 2 ^ n * 2 ^ (31 - n) := by rw [← pow_add]; congr 1; omega
  rw [LogAcc.value, startAcc, hsplit]
  push_cast
  field_simp

/-- R83: the fraction bits against the exact power, in real numbers. -/
theorem log2_frac_accurate {p : LogAcc} (h : p.normalised) :
    2 ^ (logLoop log2Iterations p).frac ≤ p.value ^ 65536 ∧
      10000 * p.value ^ 65536 < 10001 * (2 ^ (logLoop log2Iterations p).frac * 2) := by
  obtain ⟨hlower, hupper⟩ := logLoop_value log2Iterations h
  obtain ⟨hfrac, hdouble⟩ := (logLoop_normalised log2Iterations h).value_bounds
  rw [show 2 ^ log2Iterations = 65536 from rfl] at hlower hupper
  rw [show 65536 - 1 = 65535 from rfl] at hupper
  refine ⟨hfrac.trans hlower, ?_⟩
  have hvalue : 0 < (logLoop log2Iterations p).value := (by positivity : (0 : ℝ) < _).trans_le hfrac
  have hcut := hupper.trans_lt (mul_lt_mul_of_pos_left cuts_lt hvalue)
  generalize p.value ^ 65536 = power at *
  linarith only [hcut, hdouble]

/-- Settles O38: the integer part scales both sides by the same power of two. -/
theorem logarithmAccuracy : Obligations.LogarithmAccuracy := by
  unfold Obligations.LogarithmAccuracy
  intro x hpos hx
  obtain ⟨hlower, hupper⟩ := bitScan_bounds (k := 30) hpos (by omega)
  have hn := bitScan_le x 30
  have hresult := log2Core_eq hn hlower hupper
  obtain ⟨hfracLower, hfracUpper⟩ := log2_frac_accurate (startAcc_normalised hn hlower hupper)
  have hvalue := startAcc_value (x := x) hn
  generalize bitScan x 30 = n at *
  generalize (logLoop log2Iterations (startAcc x n)).frac = frac at *
  have hexponent : (log2Core x + 1048576).toNat = n * 65536 + frac := by omega
  have hpow : (x : ℝ) ^ 65536 = 2 ^ (n * 65536) * (startAcc x n).value ^ 65536 := by
    rw [hvalue, mul_pow, ← pow_mul]
  have hscale : (0 : ℝ) < 2 ^ (n * 65536) := by positivity
  rw [hexponent]
  constructor
  · have hreal : (2 : ℝ) ^ (n * 65536 + frac) ≤ (x : ℝ) ^ 65536 := by
      rw [hpow, pow_add]
      exact mul_le_mul_of_nonneg_left hfracLower hscale.le
    exact_mod_cast hreal
  · have hreal : 10000 * (x : ℝ) ^ 65536 < 10001 * 2 ^ (n * 65536 + frac + 1) :=
      calc 10000 * (x : ℝ) ^ 65536 = 2 ^ (n * 65536) * (10000 * (startAcc x n).value ^ 65536) := by
            rw [hpow, mul_left_comm]
        _ < 2 ^ (n * 65536) * (10001 * (2 ^ frac * 2)) := mul_lt_mul_of_pos_left hfracUpper hscale
        _ = 10001 * 2 ^ (n * 65536 + frac + 1) := by
            rw [pow_succ, pow_add, mul_left_comm, mul_assoc (2 ^ (n * 65536))]
    exact_mod_cast hreal

end Sys2Proof.Machine
end

section
/-! LOG2, LOG and SLOG2 (R80 to R82), and EXP after LOG (R84). -/

namespace Sys2Proof.Machine

theorem fLog2_of_nonpos {a : Word} (h : signed a ≤ 0) : fLog2 a = errorResult .domain := if_pos h

theorem fLog2_of_pos {a : Word} (h : 0 < signed a) : fLog2 a = plainResult (wrap32 (log2Core (signed a).toNat)) :=
  if_neg (not_le.2 h)

theorem fLog_of_nonpos {a : Word} (h : signed a ≤ 0) : fLog a = errorResult .domain := if_pos h

theorem fSlog2_of_nonpos {a : Word} (h : signed a ≤ 0) : fSlog2 a = clampResult minWord := if_pos h

/-- R82: SLOG2 and LOG2 agree on the domain of LOG2. -/
theorem fSlog2_of_pos {a : Word} (h : 0 < signed a) : fSlog2 a = fLog2 a := by
  rw [fLog2_of_pos h]
  exact if_neg (not_le.2 h)

/-- R79: the range of the engine on the positive words. -/
theorem log2Core_signed_bounds {a : Word} (h : 0 < signed a) :
    -1048576 ≤ log2Core (signed a).toNat ∧ log2Core (signed a).toNat ≤ 983039 := by
  have hupper := Laws.signed_upper a
  exact (log2Core_bounds (x := (signed a).toNat) (by omega) (by omega)).2

/-- R80: the result word of LOG2 reads back as the engine's value. -/
theorem signed_fLog2_res {a : Word} (h : 0 < signed a) : signed (fLog2 a).res = log2Core (signed a).toNat := by
  rw [fLog2_of_pos h]
  exact signed_wrap32_inrange (inrange_log2Core _)

/-- R79: the square of a mantissa of exactly 1 is 1 again, and its fraction bit is zero. -/
theorem logStep_one : logStep { m := 2 ^ 31, frac := 0 } = { m := 2 ^ 31, frac := 0 } := by decide

theorem logLoop_one (k : Nat) : logLoop k { m := 2 ^ 31, frac := 0 } = { m := 2 ^ 31, frac := 0 } := by
  induction k with
  | zero => rfl
  | succ k ih => rw [logLoop, logStep_one, ih]

/-- R80: a power of two has an exact logarithm. -/
theorem log2Core_two_pow {j : Nat} (hj : j ≤ 30) : log2Core (2 ^ j) = ((j : Int) - 16) * 65536 := by
  have hstart : startAcc (2 ^ j) j = { m := 2 ^ 31, frac := 0 } := by
    rw [startAcc, ← pow_add, Nat.add_sub_cancel' (by omega)]
  rw [log2Core_eq hj le_rfl (Nat.pow_lt_pow_right one_lt_two j.lt_succ_self), hstart, logLoop_one]
  exact add_zero _

/-- R80: doubling the operand keeps its mantissa and adds one to the integer part. -/
theorem log2Core_double {x : Nat} (hpos : 1 ≤ x) (hx : 2 * x ≤ 2 ^ 31 - 1) : log2Core (2 * x) = log2Core x + 65536 := by
  obtain ⟨hlower, hupper⟩ := bitScan_bounds (k := 30) hpos (by omega)
  generalize bitScan x 30 = n at *
  have hn : n ≤ 29 := by
    have : 2 ^ n < 2 ^ 30 := by omega
    have := (Nat.pow_lt_pow_iff_right one_lt_two).1 this
    omega
  have hstart : startAcc (2 * x) (n + 1) = startAcc x n := by
    rw [startAcc, startAcc, show 31 - n = 31 - (n + 1) + 1 by omega, pow_succ', ← mul_assoc, mul_comm x 2]
  rw [log2Core_eq (n := n + 1) (by omega) (by rw [pow_succ']; omega) (by rw [pow_succ']; omega), hstart,
    log2Core_eq (by omega) hlower hupper]
  push_cast
  ring

@[simp] theorem fLog2_sat (a : Word) : (fLog2 a).sat = false := by
  rcases le_or_gt (signed a) 0 with h | h
  · rw [fLog2_of_nonpos h, errorResult_sat]
  · rw [fLog2_of_pos h, plainResult_sat]

/-- Settles O39: the engine's range, and its values at powers of two and at doubled operands. -/
theorem log2Result : Obligations.Log2Result := by
  unfold Obligations.Log2Result
  refine fun a b s => ⟨(Laws.EncodedFields.log2 a b).1, s.latch (fLog2 a), rfl, s.sameRest_latch _, fLog2_sat a,
    fun h => ?_, fun h => ?_⟩
  · rw [fLog2_of_nonpos h]
    exact ⟨rfl, rfl⟩
  · have hupper := Laws.signed_upper a
    obtain ⟨hmin, hmax⟩ := log2Core_signed_bounds h
    have hcause : (fLog2 a).cause = .none := by rw [fLog2_of_pos h, plainResult_cause]
    rw [State.latch_res, State.latch_cause, signed_fLog2_res h, show signed (0xFFF00000 : Word) = -1048576 by decide]
    refine ⟨hcause, rfl, hmin, hmax, fun j hj => ?_, fun a' u ha' hu => ?_⟩
    · have hpow : (signed a).toNat = 2 ^ j := by rw [hj]; exact_mod_cast Int.toNat_natCast (2 ^ j)
      have hlt : 2 ^ j < 2 ^ 31 := by omega
      have hle := (Nat.pow_lt_pow_iff_right one_lt_two).1 hlt
      rw [hpow, log2Core_two_pow (by omega)]
    · have hupper' := Laws.signed_upper a'
      have hdouble : (signed a').toNat = 2 * (signed a).toNat := by omega
      have hres : u.res = (fLog2 a').res := by rw [exec_eq_next.1 hu]; rfl
      rw [hres, signed_fLog2_res (by omega), hdouble, log2Core_double (by omega) (by omega)]

/-- R81: what LOG delivers on its domain; the product with ln 2 is far from a clamp. -/
theorem fLog_of_pos {a : Word} (h : 0 < signed a) :
    fLog a = plainResult (wrap32 (rnd16 (log2Core (signed a).toNat * 45426))) ∧
      -726816 ≤ rnd16 (log2Core (signed a).toNat * 45426) ∧ rnd16 (log2Core (signed a).toNat * 45426) ≤ 681389 := by
  obtain ⟨hmin, hmax⟩ := log2Core_signed_bounds h
  have hround := rnd16_eq_floor (log2Core (signed a).toNat * 45426)
  have hbounds : -726816 ≤ rnd16 (log2Core (signed a).toNat * 45426) ∧
      rnd16 (log2Core (signed a).toNat * 45426) ≤ 681389 := by omega
  refine ⟨?_, hbounds⟩
  rw [fLog, if_neg (not_le.2 h), fSmul, signed_wrap32_inrange (inrange_log2Core _), show signed ln2Word = 45426 by decide]
  exact deliverClamp_inrange ⟨by omega, by omega⟩

@[simp] theorem fLog_sat (a : Word) : (fLog a).sat = false := by
  rcases le_or_gt (signed a) 0 with h | h
  · rw [fLog_of_nonpos h, errorResult_sat]
  · rw [(fLog_of_pos h).1, plainResult_sat]

/-- R81: the result word of LOG reads back as the rounded product. -/
theorem signed_fLog_res {a : Word} (h : 0 < signed a) :
    signed (fLog a).res = rnd16 (log2Core (signed a).toNat * 45426) := by
  obtain ⟨heq, hmin, hmax⟩ := fLog_of_pos h
  rw [heq]
  exact signed_wrap32_inrange ⟨by omega, by omega⟩

/-- R81: on its domain LOG reports no error. -/
theorem fLog_cause_of_pos {a : Word} (h : 0 < signed a) : (fLog a).cause = .none := by
  rw [(fLog_of_pos h).1, plainResult_cause]

/-- Settles O40: LN2 is positive, so the rounding of R43 has the sign of the base-2 logarithm. -/
theorem logResult : Obligations.LogResult := by
  unfold Obligations.LogResult
  refine fun a b s => ⟨(Laws.EncodedFields.log a b).1, s.latch (fLog a), rfl, s.sameRest_latch _, fLog_sat a,
    fun h => ?_, fun h => ?_⟩
  · rw [fLog_of_nonpos h]
    exact ⟨rfl, rfl⟩
  · obtain ⟨-, hmin, hmax⟩ := fLog_of_pos h
    have hmagnitude : rnd16 (log2Core (signed a).toNat * 45426) =
        (log2Core (signed a).toNat).sign * ((|log2Core (signed a).toNat| * 45426 + 0x8000) / 65536) := by
      rw [rnd16_eq_sign_mul, Int.sign_mul, abs_mul]
      exact congrArg (· * _) (mul_one _)
    rw [State.latch_res, signed_fLog_res h, show signed (0xFFF4E8E0 : Word) = -726816 by decide,
      show signed (0x000A65AD : Word) = 681389 by decide]
    exact ⟨fLog_cause_of_pos h, hmagnitude, hmin, hmax⟩

/-- Settles O41: on either side of zero SLOG2 is a fixed clamp or LOG2. -/
theorem slog2Result : Obligations.Slog2Result := by
  unfold Obligations.Slog2Result
  refine fun a b s => ⟨(Laws.EncodedFields.slog2 a b).1, s.latch (fSlog2 a), s.latch (fLog2 a), rfl, rfl,
    s.sameRest_latch _, ?_⟩
  rcases le_or_gt (signed a) 0 with h | h
  · rw [fSlog2_of_nonpos h, fLog2_of_nonpos h]
    exact ⟨rfl, iff_of_true rfl h, fun _ => ⟨rfl, rfl, rfl⟩, fun hpos => absurd hpos (not_lt.2 h)⟩
  · have hcause : (fLog2 a).cause = .none := by rw [fLog2_of_pos h, plainResult_cause]
    have hmax := (log2Core_signed_bounds h).2
    rw [fSlog2_of_pos h]
    refine ⟨hcause, ?_, fun hneg => absurd h (not_lt.2 hneg), fun _ => ⟨rfl, signed_fLog2_res h, ?_⟩⟩
    · rw [State.latch_sat, fLog2_sat]
      exact iff_of_false nofun (not_le.2 h)
    · rwa [State.latch_res, signed_fLog2_res h]

/-- Settles O42: the largest logarithm, 681389, is below EXP's threshold X_SAT. -/
theorem expOfLogNeverSaturates : Obligations.ExpOfLogNeverSaturates := by
  unfold Obligations.ExpOfLogNeverSaturates
  intro a b b' s h
  obtain ⟨-, -, hmax⟩ := fLog_of_pos h
  have hbelow : ¬ 681392 ≤ signed (fLog a).res := by rw [signed_fLog_res h]; omega
  have hsat : (fExp (fLog a).res).sat = false := Bool.eq_false_iff.2 ((fExp_sat_iff _).not.2 hbelow)
  exact ⟨s.latch (fLog a), _, rfl, rfl, fLog_cause_of_pos h, fLog_sat a, fExp_cause _, hsat⟩

end Sys2Proof.Machine
end

section
/-! Runs of any number of cycles: the unit never stops (R90). -/

namespace Sys2Proof.Machine

/-- Running on by one more step of a machine, when the step answers a next state. -/
theorem run_succ (M : Host.Core) {s t : M.State} (h : M.step s = .next t) (n : Nat) : M.run (n + 1) s = M.run n t := by
  rw [Host.Core.run, h]

/-- R90: every step of a run answers a next state, so the run reaches the state after that number of cycles. -/
theorem run_eq_next_after (n : Nat) (s : State) : Host.Core.run Sys2Proof.core n s = .next (State.after n s) := by
  induction n generalizing s with
  | zero => rfl
  | succ n ih =>
    obtain ⟨t, hstep, -⟩ := exists_step_next s
    rw [run_succ Sys2Proof.core hstep, after_succ hstep, ih]

/-- Settles O51: a run of `n` cycles answers the state after them. -/
theorem unitNeverStops : Obligations.UnitNeverStops := by
  unfold Obligations.UnitNeverStops
  exact fun n s => ⟨State.after n s, run_eq_next_after n s, rfl⟩

end Sys2Proof.Machine
end

section
/-! The cause and the clamp flag of every instruction, and exactly when (R91). -/

namespace Sys2Proof.Machine

/-- R91: the cause an instruction reports, by its exact result and its operands. -/
def reportedCause : Instr → Cause
  | .add a b => if inrange (signed a + signed b) then .none else .overflow
  | .sub a b => if inrange (signed a - signed b) then .none else .overflow
  | .mul a b => if inrange (rnd16 (signed a * signed b)) then .none else .overflow
  | .div a b =>
    if signed b = 0 then .divzero
    else if inrange (tdiv (signed a * 65536) (signed b)) then .none else .overflow
  | .sdiv _ b | .mod _ b => if signed b = 0 then .divzero else .none
  | .sqrt a _ => if signed a < 0 then .domain else .none
  | .log2 a _ | .log a _ => if signed a ≤ 0 then .domain else .none
  | .sadd _ _ | .ssub _ _ | .smul _ _ | .exp _ _ | .slog2 _ _ => .none

/-- R60, R78, R82: the instructions that deliver a clamped value, and for which operands. -/
def clamps : Instr → Prop
  | .sadd a b => ¬ inrange (signed a + signed b)
  | .ssub a b => ¬ inrange (signed a - signed b)
  | .smul a b => ¬ inrange (rnd16 (signed a * signed b))
  | .sdiv a b => signed b ≠ 0 ∧ ¬ inrange (tdiv (signed a * 65536) (signed b))
  | .slog2 a _ => signed a ≤ 0
  | .exp a _ => 681392 ≤ signed a
  | .add _ _ | .sub _ _ | .mul _ _ | .div _ _ | .mod _ _ | .sqrt _ _ | .log _ _ | .log2 _ _ => False

/-- R40: OVERFLOW out of range, no error in range. -/
theorem deliverSentinel_cause (n : Int) : (deliverSentinel n).cause = if inrange n then .none else .overflow := by
  rcases deliverSentinel_cases n with ⟨h, heq⟩ | ⟨h, heq⟩
  · rw [heq, if_pos h, plainResult_cause]
  · rw [heq, if_neg h, errorResult_cause]

theorem fDiv_cause (a b : Word) : (fDiv a b).cause =
    if signed b = 0 then .divzero else if inrange (tdiv (signed a * 65536) (signed b)) then .none else .overflow := by
  rw [fDiv, apply_ite Result.cause, errorResult_cause, deliverSentinel_cause, Laws.shl_sixteen]

theorem fMod_cause (a b : Word) : (fMod a b).cause = if signed b = 0 then .divzero else .none := by
  rw [fMod, apply_ite Result.cause, errorResult_cause, plainResult_cause]

theorem fSdiv_cause (a b : Word) : (fSdiv a b).cause = if signed b = 0 then .divzero else .none := by
  rw [fSdiv, apply_ite Result.cause, errorResult_cause, deliverClamp_cause]

theorem fSqrt_cause (a : Word) : (fSqrt a).cause = if signed a < 0 then .domain else .none := by
  rw [fSqrt, apply_ite Result.cause, errorResult_cause, plainResult_cause]

theorem fLog2_cause (a : Word) : (fLog2 a).cause = if signed a ≤ 0 then .domain else .none := by
  rw [fLog2, apply_ite Result.cause, errorResult_cause, plainResult_cause]

/-- R81: the last operation of LOG is F_SMUL, which reports no error. -/
theorem fLog_cause (a : Word) : (fLog a).cause = if signed a ≤ 0 then .domain else .none := by
  rw [fLog, apply_ite Result.cause, errorResult_cause, fSmul, deliverClamp_cause]

@[simp] theorem fSlog2_cause (a : Word) : (fSlog2 a).cause = .none := by
  rw [fSlog2, apply_ite Result.cause, clampResult_cause, plainResult_cause, ite_self]

/-- R91: `execute` reports the cause of the table. -/
theorem execute_cause (i : Instr) : (execute i.opcode i.operandA i.operandB).cause = reportedCause i := by
  cases i with
  | add a b => exact deliverSentinel_cause _
  | sub a b => exact deliverSentinel_cause _
  | mul a b => exact deliverSentinel_cause _
  | div a b => exact fDiv_cause a b
  | mod a b => exact fMod_cause a b
  | sadd a b => exact deliverClamp_cause _
  | ssub a b => exact deliverClamp_cause _
  | smul a b => exact deliverClamp_cause _
  | sdiv a b => exact fSdiv_cause a b
  | sqrt a b => exact fSqrt_cause a
  | exp a b => exact fExp_cause a
  | log a b => exact fLog_cause a
  | log2 a b => exact fLog2_cause a
  | slog2 a b => exact fSlog2_cause a

@[simp] theorem fDiv_sat (a b : Word) : (fDiv a b).sat = false := by
  rw [fDiv, apply_ite Result.sat, errorResult_sat, deliverSentinel_sat, ite_self]

@[simp] theorem fMod_sat (a b : Word) : (fMod a b).sat = false := by
  rw [fMod, apply_ite Result.sat, errorResult_sat, plainResult_sat, ite_self]

/-- R64: a zero divisor is an error and no clamp. -/
theorem fSdiv_sat_iff (a b : Word) :
    (fSdiv a b).sat = true ↔ signed b ≠ 0 ∧ ¬ inrange (tdiv (signed a * 65536) (signed b)) := by
  by_cases h : signed b = 0
  · rw [fSdiv, if_pos h]
    exact iff_of_false nofun fun ⟨hb, _⟩ => hb h
  · rw [fSdiv, if_neg h, deliverClamp_sat_iff, Laws.shl_sixteen, and_iff_right h]

/-- R82: SLOG2 clamps exactly off the domain of LOG2. -/
theorem fSlog2_sat_iff (a : Word) : (fSlog2 a).sat = true ↔ signed a ≤ 0 := by
  rcases le_or_gt (signed a) 0 with h | h
  · rw [fSlog2_of_nonpos h]
    exact iff_of_true rfl h
  · rw [fSlog2_of_pos h, fLog2_sat]
    exact iff_of_false nofun (not_le.2 h)

/-- A result without the clamp flag is no case of SAT. -/
theorem sat_iff_false {r : Result} (h : r.sat = false) : r.sat = true ↔ False :=
  iff_false_intro (Bool.eq_false_iff.1 h)

/-- R91: `execute` sets SAT exactly for the clamped values. -/
theorem execute_sat_iff (i : Instr) : (execute i.opcode i.operandA i.operandB).sat = true ↔ clamps i := by
  cases i with
  | add a b => exact sat_iff_false (deliverSentinel_sat _)
  | sub a b => exact sat_iff_false (deliverSentinel_sat _)
  | mul a b => exact sat_iff_false (deliverSentinel_sat _)
  | div a b => exact sat_iff_false (fDiv_sat a b)
  | mod a b => exact sat_iff_false (fMod_sat a b)
  | sadd a b => exact deliverClamp_sat_iff _
  | ssub a b => exact deliverClamp_sat_iff _
  | smul a b => exact deliverClamp_sat_iff _
  | sdiv a b => exact fSdiv_sat_iff a b
  | sqrt a b => exact sat_iff_false (fSqrt_sat a)
  | exp a b => exact fExp_sat_iff a
  | log a b => exact sat_iff_false (fLog_sat a)
  | log2 a b => exact sat_iff_false (fLog2_sat a)
  | slog2 a b => exact fSlog2_sat_iff a

/-- R22, R91: what the completion of a word that decodes leaves in CAUSE and SAT. -/
theorem completeWord_flags_of_decode_ok {w : CmdWord} {s t : State} {i : Instr} (h : completeWord w s = .next t)
    (hdecode : decode w = .ok i) : t.cause = reportedCause i ∧ (t.sat = true ↔ clamps i) := by
  rw [completeWord_of_decode hdecode, exec_eq_next] at h
  rw [h]
  exact ⟨execute_cause i, execute_sat_iff i⟩

/-- R34: what the completion of a word that the decoder refuses leaves there. -/
theorem completeWord_flags_of_decode_error {w : CmdWord} {s t : State} {e : DecodeError}
    (h : completeWord w s = .next t) (hdecode : decode w = .error e) : t.cause = .illegalOp ∧ t.sat = false := by
  rw [completeWord, hdecode, deliver_eq_next] at h
  rw [h]
  exact ⟨rfl, rfl⟩

/-- R15, R17: STATUS of an error in a sound result latch has the SAT bit clear. -/
theorem status_of_cause {t : State} {c : Cause} (hsound : t.result.sound) (hc : c ≠ .none) (h : t.cause = c) :
    t.status = statusByte c false := by
  subst h
  obtain ⟨herror, -, -⟩ := hsound
  have hsat : t.sat = false := (herror hc).2
  rw [State.status, hsat]

/-- R91: the status bytes of the four causes. -/
theorem status_of_causes {t : State} (hsound : t.result.sound) :
    (t.cause = .overflow → t.status = 0x05) ∧ (t.cause = .divzero → t.status = 0x09) ∧
    (t.cause = .domain → t.status = 0x0D) ∧ (t.cause = .illegalOp → t.status = 0x11) :=
  ⟨status_of_cause hsound nofun, status_of_cause hsound nofun, status_of_cause hsound nofun,
    status_of_cause hsound nofun⟩

/-- Settles O43: a word that decodes reports what the two tables say of its instruction, read off row by row; a refused word
reports ILLEGAL_OP; and every completion leaves a sound result latch. -/
theorem causesExactlyWhen : Obligations.CausesExactlyWhen := by
  unfold Obligations.CausesExactlyWhen
  intro w s t h
  have hstatus := status_of_causes (sound_of_completeWord h)
  rcases hdecode : decode w with i | ⟨⟨op⟩⟩
  · obtain ⟨hcause, hsat⟩ := completeWord_flags_of_decode_ok h hdecode
    simp only [Decoded.ok.injEq]
    refine ⟨?_, ?_, ?_, ?_, ?_, hstatus⟩
    · rw [hcause]; cases i <;> simp [reportedCause, ite_eq_iff]
    · rw [hcause]; cases i <;> simp [reportedCause, ite_eq_iff]
    · rw [hcause]; cases i <;> simp [reportedCause, ite_eq_iff]
    · rw [hcause]; cases i <;> simp [reportedCause, ite_eq_iff]
    · rw [hsat]; cases i <;> simp [clamps]
  · obtain ⟨hcause, hsat⟩ := completeWord_flags_of_decode_error h hdecode
    refine ⟨?_, ?_, ?_, ?_, ?_, hstatus⟩ <;> simp [hcause, hsat]

end Sys2Proof.Machine
end

section
/-! A cycle in reset: what the ports show in it, and the state it leaves (R100). -/

namespace Sys2Proof.Machine

/-- R21, R100: in reset the unit is not ready, shows no response and accepts nothing, whatever it holds (log 5). -/
theorem ports_low_of_rst {s : State} (hr : s.cycle.rst = true) :
    s.cmdReady = false ∧ s.rspValidPort = false ∧ s.accepts = false := by
  simp [State.cmdReady, State.rspValidPort, State.accepts, hr]

/-- R19, R100: a reset leaves the reset state, with the inputs of the coming cycles; nothing else of the old state is in it. -/
theorem resetUnit_eq_reset_with_inputs (s : State) : s.resetUnit = { State.reset with inputs := s.inputs } := rfl

/-- R100: the state after a cycle in reset is fixed by the inputs alone, also when a latency ends in that cycle (log 5). -/
theorem step_of_rst {s : State} (hr : s.cycle.rst = true) :
    step s = .next { State.reset with inputs := s.inputs.tail } := by
  rw [step_reset hr, resetUnit_eq_reset_with_inputs, State.nextInputs_inputs]

/-- The current cycle is a function of the inputs. -/
theorem State.cycle_eq_of_inputs_eq {s s' : State} (h : s'.inputs = s.inputs) : s'.cycle = s.cycle := by
  rw [State.cycle, State.cycle, h]

/-- R100: all states with the same inputs step alike in reset. -/
theorem step_eq_of_rst {s s' : State} (hr : s.cycle.rst = true) (h : s'.inputs = s.inputs) : step s' = step s := by
  have hr' : s'.cycle.rst = true := by rw [State.cycle_eq_of_inputs_eq h, hr]
  rw [step_of_rst hr, step_of_rst hr', h]

/-- Outside reset an empty unit is ready (R21). -/
theorem cmdReady_of_inFlight_none {s : State} (hr : s.cycle.rst = false) (hw : s.inFlight = none) :
    s.cmdReady = true := by
  simp [State.cmdReady, hr, hw]

/-- Without the strobe the response port is low, in reset or not (R21). -/
theorem rspValidPort_of_rspValid {s : State} (h : s.rspValid = false) : s.rspValidPort = false := by
  rw [State.rspValidPort, h, Bool.and_false]

/-- Settles O50: the step leaves the reset state with the remaining inputs, whose elements are those of R19, and which no other
element of the old state enters. -/
theorem resetCycle : Obligations.ResetCycle := by
  unfold Obligations.ResetCycle
  intro s hr
  obtain ⟨hready, hport, haccepts⟩ := ports_low_of_rst hr
  obtain ⟨hshows, hstatus, hrsp, hempty⟩ := resetStateValues
  refine ⟨hready, hport, haccepts, { State.reset with inputs := s.inputs.tail }, step_of_rst hr, hshows, hstatus, hrsp,
    hempty, rspValidPort_of_rspValid rfl, fun hrst => cmdReady_of_inFlight_none hrst rfl, fun s' hinputs => ?_⟩
  rw [step_eq_of_rst hr hinputs, step_of_rst hr]

end Sys2Proof.Machine
end
